-- ==== Sys2Proof/Word.lean ====
section
/-! DEFINITION. The words that cross a stage boundary of the block, as types: samples, widths, bytes, symbols and
pattern elements (spec/30_encoding.md, rules R75 to R80; spec/00_scope.md rule R13). -/

namespace Sys2Proof

/-- SAMPLE16, the input word: 16 bits, two's complement, no fields (rule R75). -/
abbrev Sample := BitVec 16

/-- WIDTH7, the word from ZCD to CLS: 7 bits, unsigned (rule R77). -/
abbrev Width := BitVec 7

/-- One byte of a Block (rule R32). -/
abbrev Byte := BitVec 8

/-- The `kind` of a symbol (rule R79). The fourth bit pattern, `0b11`, is reserved and has no constructor. -/
inductive SymKind where
  | zero
  | one
  | unclassified
deriving DecidableEq, Repr

/-- A symbol, the three-way tagged type of rules R13 and R78: `Zero` and `One` carry no width. -/
inductive Symbol where
  | zero
  | one
  | unclassified (w : Width)
deriving DecidableEq, Repr

/-- The two fields of a SYMBOL9 word whose kind is not reserved (rule R79). The width field of a `zero` or `one`
word need not be 0 here: no operation examines it (rules R79, R86). -/
structure Symbol9 where
  kind  : SymKind
  width : Width
deriving DecidableEq, Repr

/-- PATBIT, one element of the pattern memory: `Zero` or `One`, nothing else (rules R33, R80). -/
inductive PatBit where
  | zero
  | one
deriving DecidableEq, Repr

/-- The kind a symbol must have to equal a pattern element (rule R13: no other pair is ever equal). -/
def PatBit.kind : PatBit → SymKind
  | .zero => .zero
  | .one => .one

end Sys2Proof
end

