-- ==== Sys2Proof/Config.lean ====
section
/-! DEFINITION. The configuration record (spec/00_scope.md rules R6 and R9, spec/10_state.md rule R36): constant inputs of
the block, held in State so that a statement speaks of every legal configuration, not of the reference one. The sample width
(16) and the bits of a byte (8) are fixed by the types; POSW, BLKCAP and SYMCAP are unbounded in the model (rule R6, D13 to
D15). There is no free value: the spec leaves no result of an operation open. -/

namespace Sys2Proof

/-- The order in which bits fill a byte. Only `lsbFirst` has a meaning in the spec (D21). -/
inductive BitOrder where
  | lsbFirst
  | msbFirst
deriving DecidableEq, Repr

/-- The parameters of rule R6. `t` is an integer and the others naturals, so that a value outside its legal range can be
written down and refused (rule R88). The pattern length `L` is the length of `pat`. -/
structure Config where
  t        : Int
  wmax     : Nat
  oneLo    : Nat
  oneHi    : Nat
  zeroLo   : Nat
  zeroHi   : Nat
  pat      : List PatBit
  bitOrder : BitOrder
deriving DecidableEq, Repr

/-- `L`, the length of the SyncPattern (rule R6). -/
abbrev Config.len (c : Config) : Nat := c.pat.length

/-- The reference pattern of rule R9: forty Zero, then (One, One, Zero, Zero) six times. -/
def referencePattern : List PatBit :=
  List.replicate 40 .zero ++ (List.replicate 6 [.one, .one, .zero, .zero]).flatten

/-- The reference values of rule R6. -/
def Config.reference : Config :=
  { t := 4000, wmax := 100, oneLo := 5, oneHi := 15, zeroLo := 15, zeroHi := 25,
    pat := referencePattern, bitOrder := .lsbFirst }

end Sys2Proof
end

