-- ==== Sys2Proof/Syntax.lean ====
section
/-! DEFINITION. The words a stage selects an operation from, and the operations themselves, one constructor per row of
spec/opcode_table.json (spec/30_encoding.md section 3, spec/00_scope.md rule R14). -/

namespace Sys2Proof

/-- The word a stage consumes, which plays the part of an instruction word (spec/30_encoding.md, opening paragraph), in
the formats of spec/opcode_table.json. -/
inductive OpWord where
  /-- ZCD17: `HIGH` in bit 16, SAMPLE16 in bits 15..0. -/
  | zcd (x : BitVec 17)
  /-- WIDTH7. -/
  | cls (x : BitVec 7)
  /-- SEQ2: `WT` in bit 1, `SYNCED` in bit 0, and for SCN.TEST the window as SYMBOL9 words, first symbol first; the
  window is empty where there is none (`CUR < L`, and SCN.ADV). -/
  | seq (x : BitVec 2) (window : List (BitVec 9))
  /-- PAIR18: SYMBOL9 of `SYM[CUR]` in bits 17..9, SYMBOL9 of `SYM[CUR+1]` in bits 8..0. -/
  | pair (x : BitVec 18)
deriving DecidableEq, Repr

/-- The twelve operations. The operands are the bits of the word the operation was selected from that its row does not
fix; an operation whose effect does not read them says so at its meaning. -/
inductive Instr where
  /-- ZCD.RISE, rule R101. -/
  | zcdRise (v : Sample)
  /-- ZCD.FALL, rule R102. -/
  | zcdFall (v : Sample)
  /-- ZCD.HOLD, rule R105; `high` is `HIGH` before the operation. -/
  | zcdHold (high : Bool) (v : Sample)
  /-- CLS.ONE, rule R116. -/
  | clsOne (w : Width)
  /-- CLS.ZERO, rule R117. -/
  | clsZero (w : Width)
  /-- CLS.UNC, rule R118. -/
  | clsUnc (w : Width)
  /-- SCN.TEST.MATCH, rule R127; `synced` is `SYNCED` before the operation. -/
  | scnTestMatch (synced : Bool) (window : List Symbol9)
  /-- SCN.TEST.MISS, rule R129; the window is empty where there is none. -/
  | scnTestMiss (synced : Bool) (window : List Symbol9)
  /-- SCN.ADV, rule R128. -/
  | scnAdv
  /-- FD.BIT0, rule R143; the operands are the two width fields, not examined (rule R86). -/
  | fdBit0 (xa xb : BitVec 7)
  /-- FD.BIT1, rule R144; the operands are the two width fields, not examined (rule R86). -/
  | fdBit1 (xa xb : BitVec 7)
  /-- FD.LOS, rule R146; the operands are the two symbol words of the pair. -/
  | fdLos (a b : Symbol9)
deriving DecidableEq, Repr

end Sys2Proof
end

