-- ==== Sys2Proof/WellFormed.lean ====
section
/-! DEFINITION. The well-formed operations of a configuration: the part of a row's selection condition that speaks of the
word alone (spec/opcode_table.json "select"; spec/30_encoding.md rules R83 to R86 and R88). -/

namespace Sys2Proof

/-- `1 ≤ w ≤ WMAX - 1`, the WIDTH7 values that are not reserved (rules R77, R88). -/
def widthLegal (c : Config) (w : Width) : Bool :=
  decide (0 < w.toNat) && decide (w.toNat < c.wmax)

/-- `ONE_LO < w < ONE_HI` (rule R84). -/
def inOneBand (c : Config) (w : Width) : Bool :=
  decide (c.oneLo < w.toNat) && decide (w.toNat < c.oneHi)

/-- `ZERO_LO < w < ZERO_HI` (rule R84). -/
def inZeroBand (c : Config) (w : Width) : Bool :=
  decide (c.zeroLo < w.toNat) && decide (w.toNat < c.zeroHi)

/-- The window's kinds are the pattern's, element by element (rule R126). -/
def windowEqualsPattern (c : Config) (window : List Symbol9) : Bool :=
  decide (window.map Symbol9.kind = c.pat.map PatBit.kind)

/-- (`Zero`, `Zero`) or (`One`, `One`): the pairs that FD accepts (rule R142). -/
def pairAccepted (a b : SymKind) : Bool :=
  decide (a = b) && decide (a ≠ .unclassified)

/-- An operation is well-formed when its operands meet its row's selection condition. -/
def Instr.wf (c : Config) : Instr → Bool
  | .zcdRise v => decide (c.t < v.toInt)
  | .zcdFall v => decide (v.toInt < -c.t)
  | .zcdHold high v => if high then decide (-c.t ≤ v.toInt) else decide (v.toInt ≤ c.t)
  | .clsOne w => widthLegal c w && inOneBand c w
  | .clsZero w => widthLegal c w && !inOneBand c w && inZeroBand c w
  | .clsUnc w => widthLegal c w && !inOneBand c w && !inZeroBand c w
  | .scnTestMatch _ window => windowEqualsPattern c window
  | .scnTestMiss _ window => !windowEqualsPattern c window
  | .scnAdv => true
  | .fdBit0 _ _ => true
  | .fdBit1 _ _ => true
  | .fdLos a b => !pairAccepted a.kind b.kind

end Sys2Proof
end

