-- ==== Sys2Proof/Decode.lean ====
section
/-! DEFINITION. Decoding: the selection of one operation from the word a stage consumes (spec/30_encoding.md rules R82 to
R88, the tables of spec/opcode_table.json), total, rejecting by name; after it the encoder, and the numbering of
spec/opcode_table.json's words. -/

namespace Sys2Proof

/-- Why a word selects no operation (rule R88). -/
inductive Reject where
  /-- WIDTH7 is 0 or at least `WMAX`: reserved, never produced by ZCD (rules R77, R88). -/
  | reservedWidth (w : BitVec 7)
  /-- A SYMBOL9 word whose kind is `0b11`: reserved, never produced (rules R79, R88). -/
  | reservedKind (x : BitVec 9)
  /-- SEQ2 is `11`, which selects FD.PAIR, and FD.PAIR's word is PAIR18 (rules R85, R86). -/
  | pairWordExpected
  /-- SEQ2 is `10`, which selects SCN.ADV, with a window, which SCN.ADV does not read (rule R128). -/
  | windowNotExpected
deriving DecidableEq, Repr

/-! ### Bit layouts -/

/-- The two bits of a kind (rule R79). -/
def SymKind.bits : SymKind → BitVec 2
  | .zero => 0b00#2
  | .one => 0b01#2
  | .unclassified => 0b10#2

/-- The kind two bits stand for (rule R79); `0b11` is reserved. -/
def kindOfBits (b : BitVec 2) : Option SymKind :=
  if b = 0b00#2 then some .zero
  else if b = 0b01#2 then some .one
  else if b = 0b10#2 then some .unclassified
  else none

/-- SYMBOL9 as bits: `kind` in bits 8..7, `width` in bits 6..0 (rule R79). -/
def Symbol9.bits (a : Symbol9) : BitVec 9 := a.kind.bits ++ a.width

/-- The fields of a SYMBOL9 word, the width not examined (rules R79, R86). -/
def decodeSymbol9 (x : BitVec 9) : Except Reject Symbol9 :=
  match kindOfBits (x.extractLsb' 7 2) with
  | some k => .ok ⟨k, x.extractLsb' 0 7⟩
  | none => .error (.reservedKind x)

/-- The symbols of a window word, first symbol first. -/
def decodeWindow : List (BitVec 9) → Except Reject (List Symbol9)
  | [] => .ok []
  | x :: xs =>
    match decodeSymbol9 x with
    | .error e => .error e
    | .ok a =>
      match decodeWindow xs with
      | .error e => .error e
      | .ok as => .ok (a :: as)

/-- The kind of a symbol (rule R79). -/
def Symbol.kind : Symbol → SymKind
  | .zero => .zero
  | .one => .one
  | .unclassified _ => .unclassified

/-- The stored form of a symbol: the width field of `Zero` and `One` is 0 (rule R79). -/
def Symbol.word : Symbol → Symbol9
  | .zero => ⟨.zero, 0#7⟩
  | .one => ⟨.one, 0#7⟩
  | .unclassified w => ⟨.unclassified, w⟩

/-- The symbol a SYMBOL9 word stores; a `Zero` or `One` word with a width other than 0 is no stored form (rule R88). -/
def symbolOfWord (a : Symbol9) : Option Symbol :=
  match a.kind with
  | .zero => if a.width = 0#7 then some .zero else none
  | .one => if a.width = 0#7 then some .one else none
  | .unclassified => some (.unclassified a.width)

/-- The ZCD17 word of `HIGH` and a sample. -/
def zcdWord (high : Bool) (v : Sample) : BitVec 17 := BitVec.ofBool high ++ v

/-- The SEQ2 word of `WT` and `SYNCED`. -/
def seqWord (wt synced : Bool) : BitVec 2 := BitVec.ofBool wt ++ BitVec.ofBool synced

/-- The PAIR18 word of two SYMBOL9 words, the first in bits 17..9 (rule R86). -/
def pairWord (a b : Symbol9) : BitVec 18 := a.bits ++ b.bits

/-! ### Selection -/

/-- `sext_16(s)` (rules R75, R82). -/
def sampleValue (v : Sample) : Int := v.toInt

/-- The selection table of ZCD (rule R83). Both comparisons are strict and on integers. -/
def selectZcd (c : Config) (high : Bool) (v : Sample) : Instr :=
  if high then
    if sampleValue v < -c.t then .zcdFall v else .zcdHold true v
  else
    if c.t < sampleValue v then .zcdRise v else .zcdHold false v

/-- The selection table of CLS (rule R84), for a width that is not reserved. -/
def selectCls (c : Config) (w : Width) : Instr :=
  if c.oneLo < w.toNat ∧ w.toNat < c.oneHi then .clsOne w
  else if c.zeroLo < w.toNat ∧ w.toNat < c.zeroHi then .clsZero w
  else .clsUnc w

/-- The two outcomes of SCN.TEST (rules R85, R126): an exact, element-wise comparison of kinds with the pattern. -/
def selectTest (c : Config) (synced : Bool) (window : List Symbol9) : Instr :=
  if window.map Symbol9.kind = c.pat.map PatBit.kind then .scnTestMatch synced window
  else .scnTestMiss synced window

/-- The three outcomes of FD.PAIR, by the kinds alone (rules R85, R86, R142). -/
def selectPair (a b : Symbol9) : Instr :=
  match a.kind, b.kind with
  | .zero, .zero => .fdBit0 a.width b.width
  | .one, .one => .fdBit1 a.width b.width
  | .zero, .one => .fdLos a b
  | .zero, .unclassified => .fdLos a b
  | .one, .zero => .fdLos a b
  | .one, .unclassified => .fdLos a b
  | .unclassified, .zero => .fdLos a b
  | .unclassified, .one => .fdLos a b
  | .unclassified, .unclassified => .fdLos a b

/-- The operation a word selects (spec/30_encoding.md section 3), total on every word. -/
def decode (c : Config) : OpWord → Except Reject Instr
  | .zcd x => .ok (selectZcd c (x.getLsbD 16) (x.extractLsb' 0 16))
  | .cls w => if 0 < w.toNat ∧ w.toNat < c.wmax then .ok (selectCls c w) else .error (.reservedWidth w)
  | .seq x window =>
    match decodeWindow window with
    | .error e => .error e
    | .ok ws =>
      match x.getLsbD 1, x.getLsbD 0 with
      | false, y => .ok (selectTest c y ws)
      | true, false => if ws = [] then .ok .scnAdv else .error .windowNotExpected
      | true, true => .error .pairWordExpected
  | .pair x =>
    match decodeSymbol9 (x.extractLsb' 9 9) with
    | .error e => .error e
    | .ok a =>
      match decodeSymbol9 (x.extractLsb' 0 9) with
      | .error e => .error e
      | .ok b => .ok (selectPair a b)

/-! ### The encoder -/

/-- The word of an operation, from the "encoding" column of spec/opcode_table.json. -/
def encode : Instr → OpWord
  | .zcdRise v => .zcd (0b0#1 ++ v)
  | .zcdFall v => .zcd (0b1#1 ++ v)
  | .zcdHold high v => .zcd (BitVec.ofBool high ++ v)
  | .clsOne w => .cls w
  | .clsZero w => .cls w
  | .clsUnc w => .cls w
  | .scnTestMatch y window => .seq (0b0#1 ++ BitVec.ofBool y) (window.map Symbol9.bits)
  | .scnTestMiss y window => .seq (0b0#1 ++ BitVec.ofBool y) (window.map Symbol9.bits)
  | .scnAdv => .seq 0b10#2 []
  | .fdBit0 xa xb => .pair ((0b00#2 ++ xa) ++ (0b00#2 ++ xb))
  | .fdBit1 xa xb => .pair ((0b01#2 ++ xa) ++ (0b01#2 ++ xb))
  | .fdLos a b => .pair (a.bits ++ b.bits)

/-! ### The opcode table's numbering -/

/-- A PAIR18 word both of whose halves are stored forms (rules R79, R88). -/
def pairStored (x : BitVec 18) : Option (Symbol × Symbol) :=
  match decodeSymbol9 (x.extractLsb' 9 9), decodeSymbol9 (x.extractLsb' 0 9) with
  | .ok a, .ok b =>
    match symbolOfWord a, symbolOfWord b with
    | some p, some q => some (p, q)
    | _, _ => none
  | _, _ => none

/-- The stage word that `nbits` bits `w` of the opcode table stand for. The block has no instruction memory and the table's
formats share lengths, so the number of bits alone does not name the stage once it is rounded up to bytes: a word of
3 bytes is PAIR18 if it is the stored form of a pair (or has bit 17 set) and ZCD17 otherwise; a word of 1 byte is SEQ2 if it
is 0, 1 or 2 and WIDTH7 otherwise. The window operand has no bits in the table and is the empty one.
Log entry 3 (DESIGN CHOICE). -/
def OpWord.ofTable (nbits w : Nat) : OpWord :=
  if nbits = 17 then .zcd (BitVec.ofNat 17 w)
  else if nbits = 18 then .pair (BitVec.ofNat 18 w)
  else if nbits = 7 then .cls (BitVec.ofNat 7 w)
  else if nbits = 2 then .seq (BitVec.ofNat 2 w) []
  else if nbits ≤ 8 then
    if w < 3 then .seq (BitVec.ofNat 2 w) [] else .cls (BitVec.ofNat 7 w)
  else if (pairStored (BitVec.ofNat 18 w)).isSome ∨ 2 ^ 17 ≤ w then .pair (BitVec.ofNat 18 w)
  else .zcd (BitVec.ofNat 17 w)

/-- The operation the decoder reads, under the reference configuration, from a word numbered as spec/opcode_table.json
numbers it; none where it refuses. -/
def decodeTableWord (nbits w : Nat) : Option Instr :=
  match decode Config.reference (OpWord.ofTable nbits w) with
  | .ok i => some i
  | .error _ => none

end Sys2Proof
end

