-- ==== Sys2Proof/Machine/State.lean ====
section
/-! DEFINITION. The state of the block (spec/10_state.md), the records it emits, its refusals, and the state after reset
(spec/70_reset_and_hazards.md rule R205). -/

namespace Sys2Proof.Machine

/-- An element of the output stream `OUT` (rules R81, R183, R184). The constructor is the record's `code`. -/
inductive Record where
  /-- `code` 0. -/
  | sync (pos : Nat)
  /-- `code` 1; fields in the order of rule R81. -/
  | block (index pos gap len : Nat) (bytes : List Byte)
deriving DecidableEq, Repr

/-- The state of the block. -/
structure State where
  /-- The configuration, constant for the whole run (rules R6, R33, R36); `pat` is the memory `PAT`. -/
  cfg     : Config
  /-- `HIGH`, the polarity state (rule R20). -/
  high    : Bool
  /-- `DIST`, samples since the last recorded transition, saturating at `WMAX` (rule R21). -/
  dist    : BitVec 7
  /-- `SYM`, the symbol memory, append-only; `WP` is its length (rules R31, R37). -/
  sym     : List Symbol
  /-- `CUR`, the scan cursor (rule R23). -/
  cur     : Nat
  /-- `WT`, window tested at `CUR` (rule R25). -/
  wt      : Bool
  /-- `SYNCED`, DecoderState, true = Synced (rule R24). -/
  synced  : Bool
  /-- `ACC`, the byte accumulator (rule R26). -/
  acc     : BitVec 8
  /-- `NBITS`, bits clocked into `ACC`, 0 to 7 between operations (rule R27). -/
  nbits   : BitVec 3
  /-- `BLK`, the Block under construction (rule R32). -/
  blk     : List Byte
  /-- `BLKIDX`, BLOCK records emitted so far (rule R28). -/
  blkidx  : Nat
  /-- `LASTLOS`, position of the previous loss of sync, 0 for none (rule R29). -/
  lastlos : Nat
  /-- `OUT`, the records handed to BlockSink, in emission order (rule R34). -/
  out     : List Record
  /-- The model's own: samples the sample source has presented and the block has not yet consumed, oldest first
  (rule R76; log entry 1). -/
  samples : List Sample
  /-- The model's own: the width queue between ZCD and CLS of rule R169, holding a width from the ZCD operation that
  retained it to the CLS operation that classifies it (log entry 1). -/
  widths  : List Width
deriving DecidableEq, Repr

/-- `WP`, the number of symbols written to `SYM` since reset, which is its length (rule R31). -/
abbrev State.wp (s : State) : Nat := s.sym.length

/-- The block has no fault: "No operation of the block can fault, trap, abort, stall for ever or refuse its input"
(rule R180). No operation raises one, and the type has no value. -/
inductive Fault where
deriving DecidableEq, Repr

/-- Why a step has no meaning. -/
inductive Refusal where
  /-- Raised by an arm of exec whose operation has no meaning yet; no arm raises it. Safe. -/
  | notModelled (mnemonic : String)
  /-- Raised by step when the configuration is outside the legal ranges: "refuse" (rules R7, R88, D21, D25). Safe. -/
  | illegalConfiguration
  /-- Raised by step when an injected internal word is reserved: "refuse" (rule R88, D24). No run from reset meets it.
  Safe. -/
  | reservedWord (why : Reject)
deriving DecidableEq, Repr

/-- The state one reset leaves, given the configuration inputs, which reset does not write (rule R205). -/
def State.resetWith (c : Config) : State :=
  { cfg := c, high := false, dist := 0, sym := [], cur := 0, wt := false, synced := false, acc := 0, nbits := 0,
    blk := [], blkidx := 0, lastlos := 0, out := [], samples := [], widths := [] }

/-- The state after reset, with the reference configuration. -/
def State.reset : State := State.resetWith Config.reference

end Sys2Proof.Machine
end

