-- ==== Sys2Proof/Machine/Flags.lean ====
section
/-! DEFINITION. The conditions the block computes: which micro-operation of the scan unit is enabled (spec/45_pipeline.md
rules R166, R167) and whether a configuration is legal (spec/00_scope.md rules R6, R7). There are no condition codes
(spec/10_state.md rule R30). -/

namespace Sys2Proof.Machine

/-- SCN.TEST is enabled (rule R166). -/
def testEnabled (s : State) : Bool := !s.wt

/-- SCN.ADV is enabled (rule R166). -/
def advEnabled (s : State) : Bool := s.wt && !s.synced && decide (s.cur + 1 ≤ s.wp)

/-- FD.PAIR is enabled (rule R166). -/
def pairEnabled (s : State) : Bool := s.wt && s.synced && decide (s.cur + 2 ≤ s.wp)

/-- The scan unit is quiescent: no micro-operation is enabled (rule R167). -/
def quiescent (s : State) : Bool := !testEnabled s && !advEnabled s && !pairEnabled s

/-- The legal ranges of rule R6. They keep the two bands disjoint (rule R7). -/
def configLegal (c : Config) : Bool :=
  decide (0 ≤ c.t ∧ c.t ≤ 32767) && decide (2 ≤ c.wmax ∧ c.wmax ≤ 127)
    && decide (c.oneLo < c.oneHi) && decide (c.oneHi ≤ c.zeroLo + 1)
    && decide (c.zeroLo < c.zeroHi) && decide (c.zeroHi ≤ c.wmax)
    && decide (1 ≤ c.len) && decide (c.bitOrder = .lsbFirst)

end Sys2Proof.Machine
end

