-- ==== Sys2Proof/Machine/Operands.lean ====
section
/-! DEFINITION. What an operation reads: one symbol, one pattern element, the window, the pair (spec/20_memory.md rules
R51, R53, R54; spec/30_encoding.md rule R82). -/

namespace Sys2Proof.Machine

/-- `SymRead(i)` (rule R51). Beyond `WP` it answers a default, as rule R51 allows: no operation that step runs ever uses
it (log entry 6). -/
def symRead (s : State) (i : Nat) : Symbol := s.sym.getD i .zero

/-- `PatRead(j)` (rule R33). Beyond `L` there is no element. -/
def patRead (c : Config) (j : Nat) : Option PatBit := c.pat[j]?

/-- The window `SYM[CUR-L .. CUR)`, empty when `CUR < L` (rules R53, R126). -/
def window (s : State) : List Symbol :=
  if s.cfg.len ≤ s.cur then (s.sym.drop (s.cur - s.cfg.len)).take s.cfg.len else []

/-- The pair `SYM[CUR]`, `SYM[CUR+1]` (rule R54). -/
def pairRead (s : State) : Symbol × Symbol := (symRead s s.cur, symRead s (s.cur + 1))

end Sys2Proof.Machine
end

