-- ==== Sys2Proof/Machine/Ops.lean ====
section
/-! DEFINITION. The named operations on state that the meanings are made of: counting a sample, passing a width on,
`SymAppend`, `BlkAppend`, `emit`, the bit shift, entry into and loss of synchronization, and the two actions of the host
(spec/20_memory.md section 2, spec/40_zcd.md rules R100 to R104, spec/43_frame_decoder.md rule R141, spec/60_exceptions.md
section 6, spec/70_reset_and_hazards.md rule R205). -/

namespace Sys2Proof.Machine

/-- Rule R100: `DIST <- min(DIST + 1, WMAX)`. -/
def countSample (s : State) : State :=
  { s with dist := BitVec.ofNat 7 (min (s.dist.toNat + 1) s.cfg.wmax) }

/-- Rules R103 and R104: take the width from `DIST`, clear `DIST`, and pass the width to CLS if it is below `WMAX`. -/
def recordWidth (s : State) : State :=
  { s with dist := 0, widths := if s.dist.toNat < s.cfg.wmax then s.widths ++ [s.dist] else s.widths }

/-- `SymAppend(y)` (rule R52). -/
def symAppend (y : Symbol) (s : State) : State := { s with sym := s.sym ++ [y] }

/-- `BlkAppend(b)` (rule R55). -/
def blkAppend (b : Byte) (s : State) : State := { s with blk := s.blk ++ [b] }

/-- `emit(r)` (rules R12, R182). -/
def emit (r : Record) (s : State) : State := { s with out := s.out ++ [r] }

/-- The accumulator after one more bit: `(ACC >> 1) | (b << 7)` (rule R141). -/
def shiftIn (acc : BitVec 8) (b : Bool) : BitVec 8 := (acc >>> 1) ||| ((BitVec.ofBool b).setWidth 8 <<< 7)

/-- `shift(b)`, with the byte commit of rule R145 (rule R141). -/
def shift (b : Bool) (s : State) : State :=
  if s.nbits.toNat + 1 = 8 then
    { blkAppend (shiftIn s.acc b) s with acc := 0, nbits := 0 }
  else
    { s with acc := shiftIn s.acc b, nbits := s.nbits + 1 }

/-- Move the cursor; the window at the new position is not tested yet (rules R25, R147). -/
def advance (n : Nat) (s : State) : State := { s with cur := s.cur + n, wt := false }

/-- The entry into Synced, from either mode (rules R127, R130, R190). -/
def enterSync (s : State) : State :=
  { emit (.sync s.cur) s with synced := true, acc := 0, nbits := 0, blk := [], wt := true }

/-- The block's one "trap": what a loss of sync saves, changes and where it goes (rules R146, R189). -/
def loseSync (s : State) : State :=
  advance 1
    { emit (.block s.blkidx s.cur (s.cur - s.lastlos) s.blk.length s.blk) s with
        blkidx := s.blkidx + 1, lastlos := s.cur, synced := false, blk := [] }

/-! ### The host's two actions (rule R186) -/

/-- The sample source presents one sample (rule R76). -/
def present (v : Sample) (s : State) : State := { s with samples := s.samples ++ [v] }

/-- The one reset action: everything but the configuration, at any time (rules R205, R207). -/
def resetAction (s : State) : State := State.resetWith s.cfg

end Sys2Proof.Machine
end

