-- ==== Sys2Proof/Machine/Cls.lean ====
section
/-! DEFINITION. CLS, the pulse-width to symbol classifier (spec/41_classifier.md). -/

namespace Sys2Proof.Machine

/-- CLS.ONE, rule R116: the width is not kept. -/
def execClsOne (_w : Width) (s : State) : Host.Outcome State Fault Refusal :=
  .next (symAppend .one s)

/-- CLS.ZERO, rule R117: the width is not kept. -/
def execClsZero (_w : Width) (s : State) : Host.Outcome State Fault Refusal :=
  .next (symAppend .zero s)

/-- CLS.UNC, rule R118: the raw width is carried forward. -/
def execClsUnc (w : Width) (s : State) : Host.Outcome State Fault Refusal :=
  .next (symAppend (.unclassified w) s)

end Sys2Proof.Machine
end

