-- ==== Sys2Proof/Machine/Fd.lean ====
section
/-! DEFINITION. FD, frame clocking, bit assembly and loss of sync (spec/43_frame_decoder.md). The pair is examined by the
selection (rule R142) and not by the effect. -/

namespace Sys2Proof.Machine

/-- FD.BIT0, rule R143. -/
def execFdBit0 (_xa _xb : BitVec 7) (s : State) : Host.Outcome State Fault Refusal :=
  .next (advance 2 (shift false s))

/-- FD.BIT1, rule R144. -/
def execFdBit1 (_xa _xb : BitVec 7) (s : State) : Host.Outcome State Fault Refusal :=
  .next (advance 2 (shift true s))

/-- FD.LOS, rule R146. -/
def execFdLos (_a _b : Symbol9) (s : State) : Host.Outcome State Fault Refusal :=
  .next (loseSync s)

end Sys2Proof.Machine
end

