-- ==== Sys2Proof/Machine/Scn.lean ====
section
/-! DEFINITION. SCN, the preamble pattern matcher (spec/42_sync_scanner.md). The window is examined by the selection
(rule R126) and not by the effect. -/

namespace Sys2Proof.Machine

/-- SCN.TEST.MATCH, rule R127, the same in both modes (rule R130). -/
def execScnTestMatch (_synced : Bool) (_window : List Symbol9) (s : State) : Host.Outcome State Fault Refusal :=
  .next (enterSync s)

/-- SCN.TEST.MISS, rule R129. -/
def execScnTestMiss (_synced : Bool) (_window : List Symbol9) (s : State) : Host.Outcome State Fault Refusal :=
  .next { s with wt := true }

/-- SCN.ADV, rule R128: the symbol stepped over is not read. -/
def execScnAdv (s : State) : Host.Outcome State Fault Refusal :=
  .next (advance 1 s)

end Sys2Proof.Machine
end

