-- ==== Sys2Proof/Machine/Zcd.lean ====
section
/-! DEFINITION. ZCD, the zero-crossing detector (spec/40_zcd.md). The sample is examined by the selection (rule R83) and not
by the effect. -/

namespace Sys2Proof.Machine

/-- ZCD.RISE, rule R101. -/
def execZcdRise (_v : Sample) (s : State) : Host.Outcome State Fault Refusal :=
  .next (recordWidth { countSample s with high := true })

/-- ZCD.FALL, rule R102. -/
def execZcdFall (_v : Sample) (s : State) : Host.Outcome State Fault Refusal :=
  .next (recordWidth { countSample s with high := false })

/-- ZCD.HOLD, rule R105. -/
def execZcdHold (_high : Bool) (_v : Sample) (s : State) : Host.Outcome State Fault Refusal :=
  .next (countSample s)

end Sys2Proof.Machine
end

