-- ==== Sys2Proof/Machine/Dispatch.lean ====
section
/-! DEFINITION. exec: one arm per operation. -/

namespace Sys2Proof.Machine

def exec (i : Instr) (s : State) : Host.Outcome State Fault Refusal :=
  match i with
  | .zcdRise v => Sys2Proof.Machine.execZcdRise v s
  | .zcdFall v => Sys2Proof.Machine.execZcdFall v s
  | .zcdHold high v => Sys2Proof.Machine.execZcdHold high v s
  | .clsOne w => Sys2Proof.Machine.execClsOne w s
  | .clsZero w => Sys2Proof.Machine.execClsZero w s
  | .clsUnc w => Sys2Proof.Machine.execClsUnc w s
  | .scnTestMatch y ws => Sys2Proof.Machine.execScnTestMatch y ws s
  | .scnTestMiss y ws => Sys2Proof.Machine.execScnTestMiss y ws s
  | .scnAdv => Sys2Proof.Machine.execScnAdv s
  | .fdBit0 xa xb => Sys2Proof.Machine.execFdBit0 xa xb s
  | .fdBit1 xa xb => Sys2Proof.Machine.execFdBit1 xa xb s
  | .fdLos a b => Sys2Proof.Machine.execFdLos a b s

end Sys2Proof.Machine
end

