-- ==== Sys2Proof/Machine/Fetch.lean ====
section
/-! DEFINITION. Which word the block's next operation is selected from, and how a word of the opcode table is placed so
that it is the next one (spec/45_pipeline.md rules R165, R166). -/

namespace Sys2Proof.Machine

/-- The word of the enabled micro-operation of the scan unit, or none when it is quiescent (rules R85, R166). -/
def scanWord (s : State) : Option OpWord :=
  if testEnabled s then some (.seq (seqWord s.wt s.synced) ((window s).map fun y => y.word.bits))
  else if advEnabled s then some (.seq (seqWord s.wt s.synced) [])
  else if pairEnabled s then some (.pair (pairWord (pairRead s).1.word (pairRead s).2.word))
  else none

/-- The word of the next operation and the state with that word consumed, in the order of rule R165: a retained width is
classified before anything else; the scan unit then runs to quiescence; only then is the next sample consumed. None when the
block is at rest. -/
def nextWord (s : State) : Option (OpWord × State) :=
  match s.widths with
  | w :: ws => some (.cls w, { s with widths := ws })
  | [] =>
    match scanWord s with
    | some x => some (x, s)
    | none =>
      match s.samples with
      | v :: vs => some (.zcd (zcdWord s.high v), { s with samples := vs })
      | [] => none

/-- `s` made to consume the stage word `x` next (log entry 3). For ZCD17, `HIGH` is the word's bit 16, its sample is first
in the queue and the scan unit is quiescent; for WIDTH7 the width is first in the width queue; for SEQ2, `WT` and `SYNCED`
are the word's bits (with no window for SCN.TEST, one symbol past `CUR` for SCN.ADV); for PAIR18 the two symbols stand at
`CUR` and `CUR + 1`. A pair that `SYM` cannot store changes nothing. -/
def placeWord (s : State) : OpWord → State
  | .zcd x =>
    { s with high := x.getLsbD 16, samples := x.extractLsb' 0 16 :: s.samples, widths := [], wt := true, cur := s.wp }
  | .cls w => { s with widths := w :: s.widths }
  | .seq x _ =>
    if x.getLsbD 1 then
      { s with wt := true, synced := x.getLsbD 0, cur := s.wp, sym := s.sym ++ [.zero], widths := [] }
    else
      { s with wt := false, synced := x.getLsbD 0, cur := 0, widths := [] }
  | .pair x =>
    match pairStored x with
    | some (a, b) =>
      { s with wt := true, synced := true, cur := s.wp, sym := s.sym ++ [a, b], widths := [] }
    | none => s

end Sys2Proof.Machine
end

