-- ==== Sys2Proof/Machine/Step.lean ====
section
/-! DEFINITION. One step: one operation of the block, in the total order of spec/20_memory.md rule R63 and
spec/45_pipeline.md rule R165. -/

namespace Sys2Proof.Machine

/-- One step of the block. An illegal configuration is refused (rules R7, R88); at rest nothing happens until a sample is
presented (rule R167); otherwise the next operation is selected from its word and performed. -/
def step (s : State) : Host.Outcome State Fault Refusal :=
  if configLegal s.cfg then
    match nextWord s with
    | none => .next s
    | some (x, s') =>
      match decode s.cfg x with
      | .error e => .refused (.reservedWord e)
      | .ok i => exec i s'
  else .refused .illegalConfiguration

/-- `s` with the opcode-table word `w` of `nbits` bits placed where step takes its next operation from. -/
def State.withFetchWord (s : State) (nbits w : Nat) : State := placeWord s (OpWord.ofTable nbits w)

end Sys2Proof.Machine
end

