-- ==== Sys2Proof/Machine/Pipeline.lean ====
section
/-! DEFINITION. The block as spec/45_pipeline.md rule R176 writes it, one sample at a time and without operations, words or
queues; and the layer of ZCD alone as a function on a list of samples (rule R175). step does not use this file: statements
compare the two. -/

namespace Sys2Proof.Machine

/-- `classify` of rule R176, the symbol only. -/
def classify (c : Config) (w : Width) : Symbol :=
  if c.oneLo < w.toNat ∧ w.toNat < c.oneHi then .one
  else if c.zeroLo < w.toNat ∧ w.toNat < c.zeroHi then .zero
  else .unclassified w

/-- The match bit of SCN.TEST as rule R126 writes it: `CUR ≥ L` and every one of the `L` places equal. -/
def windowMatches (s : State) : Bool :=
  decide (s.cfg.len ≤ s.cur) &&
    (List.range s.cfg.len).all fun j =>
      decide ((patRead s.cfg j).map PatBit.kind = some (symRead s (s.cur - s.cfg.len + j)).kind)

/-- One turn of rule R176's `run_scan` loop, or none when the loop exits. -/
def scanTurn (s : State) : Option State :=
  if s.wt = false then
    if windowMatches s then
      some { s with out := s.out ++ [.sync s.cur], synced := true, acc := 0, nbits := 0, blk := [], wt := true }
    else some { s with wt := true }
  else if s.synced = false ∧ s.cur + 1 ≤ s.wp then
    some { s with cur := s.cur + 1, wt := false }
  else if s.synced = true ∧ s.cur + 2 ≤ s.wp then
    let a := (symRead s s.cur).kind
    let b := (symRead s (s.cur + 1)).kind
    if (a = .zero ∧ b = .zero) ∨ (a = .one ∧ b = .one) then
      let acc := (s.acc >>> 1) ||| (if a = .one then 0x80#8 else 0x00#8)
      if s.nbits = 7 then
        some { s with blk := s.blk ++ [acc], acc := 0, nbits := 0, cur := s.cur + 2, wt := false }
      else
        some { s with acc := acc, nbits := s.nbits + 1, cur := s.cur + 2, wt := false }
    else
      some { s with
        out := s.out ++ [.block s.blkidx s.cur (s.cur - s.lastlos) s.blk.length s.blk],
        blkidx := s.blkidx + 1, lastlos := s.cur, synced := false, blk := [], cur := s.cur + 1, wt := false }
  else none

/-- `run_scan` of rule R176, with a bound on its turns. -/
def runScan : Nat → State → State
  | 0, s => s
  | n + 1, s =>
    match scanTurn s with
    | some t => runScan n t
    | none => s

/-- Turns that are always enough: each one lowers `2 (WP - CUR) + (1 if WT = 0)` (rule R168). -/
def scanFuel (s : State) : Nat := 2 * (s.wp - s.cur) + 1

/-- The first two actions of rule R176's `sample(s)`: ZCD, and CLS on a retained width. -/
def detectAndClassify (v : Sample) (s : State) : State :=
  let d := min (s.dist.toNat + 1) s.cfg.wmax
  let record (high : Bool) : State :=
    { s with
      high := high, dist := 0,
      sym := if d < s.cfg.wmax then s.sym ++ [classify s.cfg (BitVec.ofNat 7 d)] else s.sym }
  if s.high = false ∧ s.cfg.t < v.toInt then record true
  else if s.high = true ∧ v.toInt < -s.cfg.t then record false
  else { s with dist := BitVec.ofNat 7 d }

/-- `sample(s)` of rule R176: the whole sample step of rule R165. -/
def sampleStep (v : Sample) (s : State) : State :=
  runScan (scanFuel (detectAndClassify v s)) (detectAndClassify v s)

/-- A run: `sample` on each sample in order (rule R169). -/
def sampleRun (vs : List Sample) (s : State) : State := vs.foldl (fun t v => sampleStep v t) s

/-- `ZCD(samples)` of rule R175, the list of retained widths, from `HIGH` and a distance, with the distance counted by
`count`: rule R100's saturating `min(d + 1, WMAX)`, or the unbounded `d + 1` of rule R21. -/
def retainedWidths (c : Config) (count : Nat → Nat) : Bool → Nat → List Sample → List Nat
  | _, _, [] => []
  | high, d, v :: vs =>
    if high = false ∧ c.t < v.toInt then
      (if count d < c.wmax then [count d] else []) ++ retainedWidths c count true 0 vs
    else if high = true ∧ v.toInt < -c.t then
      (if count d < c.wmax then [count d] else []) ++ retainedWidths c count false 0 vs
    else retainedWidths c count high (count d) vs

end Sys2Proof.Machine
end

