-- ==== Sys2Proof/Safety.lean ====
section
/-! DEFINITION. What holds in every state a run can reach (spec/10_state.md rule R39), in the terms the statements use: the
ranges of the registers, the legality of what is stored, and what `OUT` alone says of the mode, the block index and the last
loss of sync. -/

namespace Sys2Proof.Machine

/-- A symbol the classifier can have produced: the width of an `Unclassified` symbol is a width ZCD retains and is in
neither band (rules R77, R88, R118). -/
def symbolLegal (c : Config) : Symbol → Prop
  | .zero => True
  | .one => True
  | .unclassified w =>
    0 < w.toNat ∧ w.toNat < c.wmax ∧ ¬(c.oneLo < w.toNat ∧ w.toNat < c.oneHi) ∧
      ¬(c.zeroLo < w.toNat ∧ w.toNat < c.zeroHi)

/-- What a reader of `OUT` knows: the mode, how many BLOCK records there were, the position of the last loss of sync, of the
last SYNC, and of the last record. -/
structure Ledger where
  synced   : Bool
  blocks   : Nat
  lastLos  : Nat
  lastSync : Option Nat
  lastPos  : Nat
deriving DecidableEq, Repr

/-- Before any record. -/
def Ledger.empty : Ledger := { synced := false, blocks := 0, lastLos := 0, lastSync := none, lastPos := 0 }

/-- One record read; none if the record cannot follow. A SYNC is at `L` or later and after the SYNC before it (rules R134,
R135); a BLOCK needs a SYNC since the BLOCK before it, carries the next index, the gap from the BLOCK before it, its number
of bytes, and that number is one per eight pairs since the SYNC (rules R153 to R156); positions never decrease (rule R185). -/
def Ledger.read (l : Nat) (g : Ledger) : Record → Option Ledger
  | .sync pos =>
    if l ≤ pos ∧ g.lastPos ≤ pos ∧ g.lastSync.all (fun p => decide (p < pos)) = true then
      some { g with synced := true, lastSync := some pos, lastPos := pos }
    else none
  | .block index pos gap len bytes =>
    match g.lastSync with
    | none => none
    | some p =>
      if g.synced = true ∧ index = g.blocks ∧ g.lastPos ≤ pos ∧ gap = pos - g.lastLos ∧
          (0 < g.blocks → g.lastLos < pos) ∧ len = bytes.length ∧ (pos - p) % 2 = 0 ∧ len = (pos - p) / 2 / 8 then
        some { g with synced := false, blocks := g.blocks + 1, lastLos := pos, lastPos := pos }
      else none

/-- `OUT` read from its first record; none if some record cannot stand where it does. -/
def Ledger.replay (l : Nat) : Ledger → List Record → Option Ledger
  | g, [] => some g
  | g, r :: rs =>
    match g.read l r with
    | none => none
    | some g' => Ledger.replay l g' rs

/-- The ledger of a state's `OUT` agrees with its registers (rule R39 items 4 and 7, rules R153 to R156). -/
def ledgerAgrees (s : State) : Prop :=
  ∃ g, Ledger.replay s.cfg.len Ledger.empty s.out = some g ∧
    g.synced = s.synced ∧ g.blocks = s.blkidx ∧ g.lastLos = s.lastlos ∧ g.lastPos ≤ s.cur ∧
    (∀ p, g.lastSync = some p → if s.wt = true then p ≤ s.cur else p < s.cur) ∧
    (s.synced = true → ∃ p, g.lastSync = some p ∧ s.cur = p + 16 * s.blk.length + 2 * s.nbits.toNat)

/-- The invariant of rule R39 (its item 3 is the type of `NBITS`, its item 6 is a statement of its own), with the legality
of the configuration and of everything stored. -/
structure Inv (s : State) : Prop where
  legal       : configLegal s.cfg = true
  distRange   : s.dist.toNat ≤ s.cfg.wmax
  curRange    : s.cur ≤ s.wp
  symLegal    : ∀ y ∈ s.sym, symbolLegal s.cfg y
  oneWidth    : s.widths.length ≤ 1
  widthsLegal : ∀ w ∈ s.widths, 0 < w.toNat ∧ w.toNat < s.cfg.wmax
  losRange    : s.lastlos ≤ s.cur
  losPassed   : 0 < s.blkidx → s.lastlos < s.cur
  blkSynced   : s.blk ≠ [] → s.synced = true
  ledger      : ledgerAgrees s

/-- The data bits of a list of symbols read as pairs, none if some pair is not two `Zero` or two `One` (rule R142). -/
def pairBits : List Symbol → Option (List Bool)
  | [] => some []
  | .zero :: .zero :: ys => (pairBits ys).map fun bs => false :: bs
  | .one :: .one :: ys => (pairBits ys).map fun bs => true :: bs
  | _ => none

/-- The position of the last SYNC record of a list, if there is one. -/
def lastSyncPos : List Record → Option Nat
  | [] => none
  | .sync p :: rs => (lastSyncPos rs).or (some p)
  | .block _ _ _ _ _ :: rs => lastSyncPos rs

/-- While Synced, the symbols from the last SYNC position to `CUR` are accepted pairs; `BLK` holds their bits eight to a
byte, bit `j` of byte `k` being bit `8 k + j`; and `ACC` holds the bits of the unfinished byte in its top `NBITS` bits
(rules R141, R145, R147). -/
def frameAgrees (s : State) : Prop :=
  s.synced = true →
    ∃ p bs, lastSyncPos s.out = some p ∧ p ≤ s.cur ∧ s.cur ≤ s.wp ∧
      pairBits ((s.sym.drop p).take (s.cur - p)) = some bs ∧
      bs.length = 8 * s.blk.length + s.nbits.toNat ∧
      (∀ k j, k < s.blk.length → j < 8 → ((s.blk.getD k 0).getLsbD j) = bs.getD (8 * k + j) false) ∧
      (∀ j, j < s.nbits.toNat → s.acc.getLsbD (8 - s.nbits.toNat + j) = bs.getD (8 * s.blk.length + j) false)

end Sys2Proof.Machine
end

