-- ==== Sys2Proof/Certificates/Slice0/Obligations.lean ====
section
/-! DEFINITION. The statements for the provers: what the rules of spec/ say an operation or the block does. A statement about
a legal configuration holds for every legal configuration, not only for the reference one (spec/00_scope.md rules R6, R9). -/

open Sys2Proof Sys2Proof.Machine

/-! ### Reset and configuration -/

/-- Section 1 of spec/70_reset_and_hazards.md: reset puts every piece of state at its value and does not write the
configuration. The values the source does not give are the spec's decisions D4, D16, D18 (log entry 5); the two queues are
the model's own (log entry 1). -/
def Obligations.ResetPutsEveryStateAtItsValue : Prop :=
  (∀ s : State, let t := resetAction s
    t.cfg = s.cfg ∧ t.high = false ∧ t.dist = 0 ∧ t.sym = [] ∧ t.wp = 0 ∧ t.cur = 0 ∧ t.wt = false ∧
      t.synced = false ∧ t.acc = 0 ∧ t.nbits = 0 ∧ t.blk = [] ∧ t.blkidx = 0 ∧ t.lastlos = 0 ∧ t.out = [] ∧
      t.samples = [] ∧ t.widths = []) ∧
  (∀ s : State, s.cfg = Config.reference → resetAction s = State.reset)

/-- The invariant holds after reset, with every legal configuration. -/
def Obligations.ResetStateMeetsTheInvariants : Prop :=
  (∀ c : Config, configLegal c = true → Inv (State.resetWith c) ∧ frameAgrees (State.resetWith c)) ∧
  Inv State.reset

/-- Rule R7, whole. -/
def Obligations.LegalBandsAreDisjoint : Prop :=
  (∀ (c : Config) (w : Nat), configLegal c = true →
    ¬((c.oneLo < w ∧ w < c.oneHi) ∧ (c.zeroLo < w ∧ w < c.zeroHi))) ∧
  (∀ w : Nat, (Config.reference.oneLo < w ∧ w < Config.reference.oneHi) ↔ (6 ≤ w ∧ w ≤ 14)) ∧
  (∀ w : Nat, (Config.reference.zeroLo < w ∧ w < Config.reference.zeroHi) ↔ (16 ≤ w ∧ w ≤ 24)) ∧
  (∀ (s : State) (w : Nat),
    (s.cfg.oneLo < w ∧ w < s.cfg.oneHi) ∧ (s.cfg.zeroLo < w ∧ w < s.cfg.zeroHi) →
      step s = .refused .illegalConfiguration)

/-- The legal ranges of rule R6 and the refusals of rule R88 for a configuration outside them, each alone and together. -/
def Obligations.ConfigurationOutsideItsRangesIsRefused : Prop :=
  ∀ s : State, let c := s.cfg
    ((c.t < 0 ∨ 32767 < c.t ∨ c.wmax < 2 ∨ 127 < c.wmax ∨ c.oneHi ≤ c.oneLo ∨ c.zeroLo + 1 < c.oneHi ∨
        c.zeroHi ≤ c.zeroLo ∨ c.wmax < c.zeroHi ∨ c.pat = [] ∨ c.bitOrder = .msbFirst) ↔
      step s = .refused .illegalConfiguration)

/-! ### Words and selection -/

/-- Rule R83, whole: the four rows, exhaustive and exclusive. -/
def Obligations.ZcdSelectionTable : Prop :=
  ∀ (c : Config) (high : Bool) (v : Sample),
    (high = false → c.t < v.toInt → decode c (.zcd (zcdWord high v)) = .ok (.zcdRise v)) ∧
    (high = false → v.toInt ≤ c.t → decode c (.zcd (zcdWord high v)) = .ok (.zcdHold false v)) ∧
    (high = true → v.toInt < -c.t → decode c (.zcd (zcdWord high v)) = .ok (.zcdFall v)) ∧
    (high = true → -c.t ≤ v.toInt → decode c (.zcd (zcdWord high v)) = .ok (.zcdHold true v)) ∧
    ((high = false ∧ c.t < v.toInt) ∨ (high = false ∧ v.toInt ≤ c.t) ∨ (high = true ∧ v.toInt < -c.t) ∨
      (high = true ∧ -c.t ≤ v.toInt)) ∧
    ¬((high = false ∧ c.t < v.toInt) ∧ (high = false ∧ v.toInt ≤ c.t)) ∧
    ¬((high = true ∧ v.toInt < -c.t) ∧ (high = true ∧ -c.t ≤ v.toInt))

/-- Rule R120, with the selection of rule R84: for a width that is not reserved exactly one operation is selected, by the bands, and the reference
rows are those of the table. -/
def Obligations.ClsSelectionTable : Prop :=
  (∀ (c : Config) (w : Width), configLegal c = true → 0 < w.toNat → w.toNat < c.wmax →
    (decode c (.cls w) = .ok (.clsOne w) ↔ c.oneLo < w.toNat ∧ w.toNat < c.oneHi) ∧
    (decode c (.cls w) = .ok (.clsZero w) ↔ c.zeroLo < w.toNat ∧ w.toNat < c.zeroHi) ∧
    (decode c (.cls w) = .ok (.clsUnc w) ↔
      ¬(c.oneLo < w.toNat ∧ w.toNat < c.oneHi) ∧ ¬(c.zeroLo < w.toNat ∧ w.toNat < c.zeroHi)) ∧
    (decode c (.cls w) = .ok (.clsOne w) ∨ decode c (.cls w) = .ok (.clsZero w) ∨
      decode c (.cls w) = .ok (.clsUnc w)) ∧
    ¬((c.oneLo < w.toNat ∧ w.toNat < c.oneHi) ∧ (c.zeroLo < w.toNat ∧ w.toNat < c.zeroHi))) ∧
  (∀ w : Width,
    (decode Config.reference (.cls w) = .ok (.clsOne w) ↔ 6 ≤ w.toNat ∧ w.toNat ≤ 14) ∧
    (decode Config.reference (.cls w) = .ok (.clsZero w) ↔ 16 ≤ w.toNat ∧ w.toNat ≤ 24) ∧
    (decode Config.reference (.cls w) = .ok (.clsUnc w) ↔
      (1 ≤ w.toNat ∧ w.toNat ≤ 5) ∨ w.toNat = 15 ∨ (25 ≤ w.toNat ∧ w.toNat ≤ 99)))

/-- Rule R88, the injected words: a reserved width selects nothing and stops the step by name, and so does a reserved
kind. -/
def Obligations.ReservedWordsAreRefused : Prop :=
  (∀ (c : Config) (w : Width),
    decode c (.cls w) = .error (.reservedWidth w) ↔ (w.toNat = 0 ∨ c.wmax ≤ w.toNat)) ∧
  (∀ (s : State) (w : Width) (ws : List Width), configLegal s.cfg = true → s.widths = w :: ws →
    (w.toNat = 0 ∨ s.cfg.wmax ≤ w.toNat) → step s = .refused (.reservedWord (.reservedWidth w))) ∧
  (∀ (c : Config) (x : BitVec 18), (x.extractLsb' 16 2 = 0b11#2 ∨ x.extractLsb' 7 2 = 0b11#2) →
    ∃ y, decode c (.pair x) = .error (.reservedKind y) ∧ y.extractLsb' 7 2 = 0b11#2)

/-- Rule R86 with rule R142: the operation of an 18-bit pair word, by its two kinds; the width bits are not examined; the two
canonical accepting words. -/
def Obligations.PairWordSelection : Prop :=
  ∀ (c : Config) (x : BitVec 18), let a := x.extractLsb' 16 2
    let b := x.extractLsb' 7 2
    (a = 0b00#2 → b = 0b00#2 →
      decode c (.pair x) = .ok (.fdBit0 (x.extractLsb' 9 7) (x.extractLsb' 0 7))) ∧
    (a = 0b01#2 → b = 0b01#2 →
      decode c (.pair x) = .ok (.fdBit1 (x.extractLsb' 9 7) (x.extractLsb' 0 7))) ∧
    (a ≠ 0b11#2 → b ≠ 0b11#2 → ¬(a = 0b00#2 ∧ b = 0b00#2) → ¬(a = 0b01#2 ∧ b = 0b01#2) →
      ∃ p q : Symbol9, decode c (.pair x) = .ok (.fdLos p q) ∧ p.kind.bits = a ∧ q.kind.bits = b ∧
        p.width = x.extractLsb' 9 7 ∧ q.width = x.extractLsb' 0 7) ∧
    (pairWord Symbol.zero.word Symbol.zero.word = 0x00000#18) ∧
    (pairWord Symbol.one.word Symbol.one.word = 0x10080#18)

/-- Words written out from the encodings of spec/opcode_table.json and the vectors of spec/95_test_vectors.md, with the
operation each one stands for under the reference configuration. -/
def Obligations.WrittenOutWordsDecode : Prop :=
  decode Config.reference (.zcd 0b00001001110001000#17) = .ok (.zcdRise 0x1388#16) ∧
  decode Config.reference (.zcd 0b11111000001011111#17) = .ok (.zcdFall 0xF05F#16) ∧
  decode Config.reference (.zcd 0b00000111110100000#17) = .ok (.zcdHold false 0x0FA0#16) ∧
  decode Config.reference (.cls 0b0001010#7) = .ok (.clsOne 10#7) ∧
  decode Config.reference (.cls 0b0010100#7) = .ok (.clsZero 20#7) ∧
  decode Config.reference (.cls 0b1100011#7) = .ok (.clsUnc 99#7) ∧
  decode Config.reference (.seq 0b00#2 []) = .ok (.scnTestMiss false []) ∧
  decode Config.reference (.seq 0b10#2 []) = .ok .scnAdv ∧
  decode Config.reference (.pair 0b000000000000000000#18) = .ok (.fdBit0 0 0) ∧
  decode Config.reference (.pair 0b010000000010000000#18) = .ok (.fdBit1 0 0) ∧
  decode Config.reference (.pair 0b100011110000000000#18) = .ok (.fdLos ⟨.unclassified, 30#7⟩ ⟨.zero, 0#7⟩)

/-- Decoding the word of a well-formed operation gives it back, with every operand, under every configuration. -/
def Obligations.DecodeOfEncodeIsTheOperation : Prop :=
  ∀ (c : Config) (i : Instr), i.wf c = true → decode c (encode i) = .ok i

/-- A word that decodes is the word of the operation it decodes to, which is well-formed: no bit of a word is dropped. -/
def Obligations.EncodeOfDecodeIsTheWord : Prop :=
  ∀ (c : Config) (x : OpWord) (i : Instr), decode c x = .ok i → encode i = x ∧ i.wf c = true

/-! ### The step -/

/-- With a legal configuration, the step at a state whose next word decodes to an operation is that operation performed on
the state with the word consumed: the width is taken from its queue, the sample from its queue, and a word of the scan unit
consumes nothing. -/
def Obligations.StepRunsTheDecodedOperation : Prop :=
  ∀ (s s' : State) (x : OpWord) (i : Instr), configLegal s.cfg = true → nextWord s = some (x, s') →
    decode s.cfg x = .ok i →
      step s = exec i s' ∧
      ((∃ w, s.widths = w :: s'.widths ∧ s' = { s with widths := s'.widths }) ∨
        (s.widths = [] ∧ ∃ v, s.samples = v :: s'.samples ∧ s' = { s with samples := s'.samples }) ∨
        (s.widths = [] ∧ s' = s))

/-- Rules R166 and R167: at most one micro-operation is enabled, and the scan unit is quiescent exactly as rule R167 says. -/
def Obligations.AtMostOneMicroOperationIsEnabled : Prop :=
  ∀ s : State,
    (testEnabled s = true ↔ s.wt = false) ∧
    (advEnabled s = true ↔ s.wt = true ∧ s.synced = false ∧ s.wp ≥ s.cur + 1) ∧
    (pairEnabled s = true ↔ s.wt = true ∧ s.synced = true ∧ s.wp ≥ s.cur + 2) ∧
    ¬(testEnabled s = true ∧ advEnabled s = true) ∧ ¬(testEnabled s = true ∧ pairEnabled s = true) ∧
    ¬(advEnabled s = true ∧ pairEnabled s = true) ∧
    (scanWord s = none ↔ quiescent s = true) ∧
    (s.cur ≤ s.wp →
      (quiescent s = true ↔
        s.wt = true ∧ ((s.synced = false ∧ s.wp = s.cur) ∨ (s.synced = true ∧ s.wp ≤ s.cur + 1))))

/-- At rest with no sample presented a step changes nothing, and while Synced a symbol without a partner waits, whatever it
is (rules R142, R167, R170). -/
def Obligations.RestAndTheUnpairedSymbolWait : Prop :=
  ∀ s : State, configLegal s.cfg = true → s.widths = [] → s.samples = [] →
    (quiescent s = true → step s = .next s) ∧
    (∀ y : Symbol, s.wt = true → s.synced = true → s.wp = s.cur → step (symAppend y s) = .next (symAppend y s))

/-! ### ZCD -/

/-- Rule R101, whole: when ZCD.RISE is selected, what it does, its corner cases and its example. -/
def Obligations.ZcdRiseRule : Prop :=
  (∀ (c : Config) (high : Bool) (v : Sample),
    decode c (.zcd (zcdWord high v)) = .ok (.zcdRise v) ↔ high = false ∧ c.t < v.toInt) ∧
  (∀ (v : Sample) (s : State), configLegal s.cfg = true →
    let w := min (s.dist.toNat + 1) s.cfg.wmax
    exec (.zcdRise v) s = .next { s with
      high := true, dist := 0,
      widths := if w < s.cfg.wmax then s.widths ++ [BitVec.ofNat 7 w] else s.widths }) ∧
  (∀ (c : Config) (high : Bool) (v : Sample), (v.toInt = c.t ∨ c.t = 32767) →
    decode c (.zcd (zcdWord high v)) ≠ .ok (.zcdRise v)) ∧
  (∀ c : Config, c.t ≤ 32766 → decode c (.zcd (zcdWord false 0x7FFF#16)) = .ok (.zcdRise 0x7FFF#16)) ∧
  (∀ s : State, s.cfg = Config.reference → s.high = false → s.dist = 2 →
    decode s.cfg (.zcd (zcdWord s.high 5000#16)) = .ok (.zcdRise 5000#16) ∧
    exec (.zcdRise 5000#16) s = .next { s with high := true, dist := 0, widths := s.widths ++ [3#7] })

/-- Rule R102, whole: when ZCD.FALL is selected, what it does, its corner cases and its example. -/
def Obligations.ZcdFallRule : Prop :=
  (∀ (c : Config) (high : Bool) (v : Sample),
    decode c (.zcd (zcdWord high v)) = .ok (.zcdFall v) ↔ high = true ∧ v.toInt < -c.t) ∧
  (∀ (v : Sample) (s : State), configLegal s.cfg = true →
    let w := min (s.dist.toNat + 1) s.cfg.wmax
    exec (.zcdFall v) s = .next { s with
      high := false, dist := 0,
      widths := if w < s.cfg.wmax then s.widths ++ [BitVec.ofNat 7 w] else s.widths }) ∧
  (∀ (c : Config) (high : Bool) (v : Sample), v.toInt = -c.t →
    decode c (.zcd (zcdWord high v)) ≠ .ok (.zcdFall v)) ∧
  (∀ c : Config, configLegal c = true →
    decode c (.zcd (zcdWord true 0x8000#16)) = .ok (.zcdFall 0x8000#16)) ∧
  (∀ (c : Config) (high : Bool) (v : Sample), c.t = 0 →
    (decode c (.zcd (zcdWord high v)) = .ok (.zcdRise v) ↔ high = false ∧ v.toInt > 0) ∧
    (decode c (.zcd (zcdWord high v)) = .ok (.zcdFall v) ↔ high = true ∧ v.toInt < 0) ∧
    decode c (.zcd (zcdWord high 0#16)) = .ok (.zcdHold high 0#16)) ∧
  (∀ s : State, s.cfg = Config.reference → s.high = true → s.dist = 3 →
    decode s.cfg (.zcd (zcdWord s.high 0xF05F#16)) = .ok (.zcdFall 0xF05F#16) ∧
    exec (.zcdFall 0xF05F#16) s = .next { s with high := false, dist := 0, widths := s.widths ++ [4#7] })

/-- Rule R105, whole: when ZCD.HOLD is selected, what it does, its corner cases and its example. -/
def Obligations.ZcdHoldRule : Prop :=
  (∀ (c : Config) (high : Bool) (v : Sample),
    decode c (.zcd (zcdWord high v)) = .ok (.zcdHold high v) ↔
      (high = false ∧ v.toInt ≤ c.t) ∨ (high = true ∧ v.toInt ≥ -c.t)) ∧
  (∀ (high : Bool) (v : Sample) (s : State), configLegal s.cfg = true →
    exec (.zcdHold high v) s = .next { s with dist := BitVec.ofNat 7 (min (s.dist.toNat + 1) s.cfg.wmax) }) ∧
  (∀ (c : Config) (high : Bool) (v : Sample), configLegal c = true →
    ((-c.t ≤ v.toInt ∧ v.toInt ≤ c.t) ∨ (high = true ∧ c.t < v.toInt) ∨ (high = false ∧ v.toInt < -c.t)) →
      decode c (.zcd (zcdWord high v)) = .ok (.zcdHold high v)) ∧
  (∀ (high : Bool) (v : Sample) (s : State), configLegal s.cfg = true → s.dist.toNat = s.cfg.wmax →
    exec (.zcdHold high v) s = .next s) ∧
  (∀ s : State, s.cfg = Config.reference → s.high = true → s.dist = 1 →
    decode s.cfg (.zcd (zcdWord s.high 0xF448#16)) = .ok (.zcdHold true 0xF448#16) ∧
    exec (.zcdHold true 0xF448#16) s = .next { s with dist := 2 })

/-- One sample step's first action (rules R83, R100 to R105, R165): with no width waiting and the scan unit quiescent, a step
consumes exactly one sample and does to `HIGH`, `DIST` and the width queue what the detector says, and nothing else. -/
def Obligations.StepConsumesOneSample : Prop :=
  ∀ (s : State) (v : Sample) (vs : List Sample), configLegal s.cfg = true → s.widths = [] → quiescent s = true →
    s.samples = v :: vs →
    let w := min (s.dist.toNat + 1) s.cfg.wmax
    let queue := if w < s.cfg.wmax then [BitVec.ofNat 7 w] else []
    (s.high = false → v.toInt > s.cfg.t →
      step s = .next { s with samples := vs, high := true, dist := 0, widths := queue }) ∧
    (s.high = true → v.toInt < -s.cfg.t →
      step s = .next { s with samples := vs, high := false, dist := 0, widths := queue }) ∧
    ((s.high = false ∧ v.toInt ≤ s.cfg.t) ∨ (s.high = true ∧ v.toInt ≥ -s.cfg.t) →
      step s = .next { s with samples := vs, dist := BitVec.ofNat 7 w })

/-- Rules R103 and R104 over every step: a width is recorded exactly when `HIGH` changes, `DIST` is then cleared whether or
not the width is retained, and the width is retained exactly when it is below `WMAX`. -/
def Obligations.WidthIsRecordedExactlyWhenHighChanges : Prop :=
  ∀ s t : State, step s = .next t →
    (t.high ≠ s.high → t.dist = 0 ∧ s.widths = [] ∧
      let w := min (s.dist.toNat + 1) s.cfg.wmax
      t.widths = if w < s.cfg.wmax then [BitVec.ofNat 7 w] else []) ∧
    (t.high = s.high → (t.widths = s.widths ∨ t.widths = s.widths.tail) ∧
      (t.dist = s.dist ∨ t.dist.toNat = min (s.dist.toNat + 1) s.cfg.wmax))

/-- Rule R108 over every run: samples that all lie in the band from -T to T cause no transition and no width, however many
there are. -/
def Obligations.SamplesInsideTheBandCauseNothing : Prop :=
  ∀ (n : Nat) (s t : State), s.widths = [] →
    (∀ v ∈ s.samples, -s.cfg.t ≤ v.toInt ∧ v.toInt ≤ s.cfg.t) →
    Host.Core.run Sys2Proof.core n s = .next t →
      t.high = s.high ∧ t.sym = s.sym ∧ t.widths = [] ∧ t.samples <:+ s.samples

/-- Rule R21: the list of retained widths is the same with the counter that saturates at `WMAX` and with an unbounded one. -/
def Obligations.SaturationOfTheDistanceIsUnobservable : Prop :=
  ∀ (c : Config) (high : Bool) (d : Nat) (vs : List Sample),
    retainedWidths c (fun d => min (d + 1) c.wmax) high (min d c.wmax) vs =
      retainedWidths c (fun d => d + 1) high d vs

/-! ### CLS -/

/-- Rule R116, whole: selection, result, corner cases, example. -/
def Obligations.ClsOneRule : Prop :=
  (∀ (c : Config) (w : Width), 0 < w.toNat → w.toNat < c.wmax →
    (decode c (.cls w) = .ok (.clsOne w) ↔ c.oneLo < w.toNat ∧ w.toNat < c.oneHi)) ∧
  (∀ w : Width, decode Config.reference (.cls w) = .ok (.clsOne w) ↔ 6 ≤ w.toNat ∧ w.toNat ≤ 14) ∧
  (∀ (w : Width) (s : State), exec (.clsOne w) s = .next { s with sym := s.sym ++ [.one] }) ∧
  (∀ s : State, s.cfg = Config.reference →
    decode s.cfg (.cls 10#7) = .ok (.clsOne 10#7) ∧
    exec (.clsOne 10#7) s = .next { s with sym := s.sym ++ [.one] } ∧ Symbol.one.word.bits = 0x080#9) ∧
  decode Config.reference (.cls 5#7) ≠ .ok (.clsOne 5#7) ∧ decode Config.reference (.cls 15#7) ≠ .ok (.clsOne 15#7)

/-- Rule R117, whole: selection, result, corner cases, example. -/
def Obligations.ClsZeroRule : Prop :=
  (∀ (c : Config) (w : Width), configLegal c = true → 0 < w.toNat → w.toNat < c.wmax →
    (decode c (.cls w) = .ok (.clsZero w) ↔ c.zeroLo < w.toNat ∧ w.toNat < c.zeroHi)) ∧
  (∀ w : Width, decode Config.reference (.cls w) = .ok (.clsZero w) ↔ 16 ≤ w.toNat ∧ w.toNat ≤ 24) ∧
  (∀ (w : Width) (s : State), exec (.clsZero w) s = .next { s with sym := s.sym ++ [.zero] }) ∧
  (∀ s : State, s.cfg = Config.reference →
    decode s.cfg (.cls 20#7) = .ok (.clsZero 20#7) ∧
    exec (.clsZero 20#7) s = .next { s with sym := s.sym ++ [.zero] } ∧ Symbol.zero.word.bits = 0x000#9) ∧
  decode Config.reference (.cls 15#7) ≠ .ok (.clsZero 15#7) ∧ decode Config.reference (.cls 25#7) ≠ .ok (.clsZero 25#7)

/-- Rule R118, whole: selection, result, the three sub-ranges, examples. -/
def Obligations.ClsUncRule : Prop :=
  (∀ (c : Config) (w : Width), 0 < w.toNat → w.toNat < c.wmax →
    (decode c (.cls w) = .ok (.clsUnc w) ↔
      ¬(c.oneLo < w.toNat ∧ w.toNat < c.oneHi) ∧ ¬(c.zeroLo < w.toNat ∧ w.toNat < c.zeroHi))) ∧
  (∀ w : Width, decode Config.reference (.cls w) = .ok (.clsUnc w) ↔
    (1 ≤ w.toNat ∧ w.toNat ≤ 5) ∨ w.toNat = 15 ∨ (25 ≤ w.toNat ∧ w.toNat ≤ 99)) ∧
  (∀ (w : Width) (s : State), exec (.clsUnc w) s = .next { s with sym := s.sym ++ [.unclassified w] }) ∧
  (∀ s : State, s.cfg = Config.reference → ∀ w ∈ [30#7, 15#7, 3#7],
    decode s.cfg (.cls w) = .ok (.clsUnc w) ∧
    exec (.clsUnc w) s = .next { s with sym := s.sym ++ [.unclassified w] }) ∧
  (Symbol.unclassified 30#7).word.bits = 0x11E#9 ∧ (Symbol.unclassified 15#7).word.bits = 0x10F#9 ∧
  (Symbol.unclassified 3#7).word.bits = 0x103#9

/-- The sample step's second action (rules R115, R165): a waiting width that is not reserved is classified before anything
else runs, appends exactly one symbol, which its bands give, and changes nothing else. -/
def Obligations.StepClassifiesTheWaitingWidth : Prop :=
  ∀ (s : State) (w : Width) (ws : List Width), configLegal s.cfg = true → s.widths = w :: ws → 0 < w.toNat →
    w.toNat < s.cfg.wmax →
    (s.cfg.oneLo < w.toNat → w.toNat < s.cfg.oneHi →
      step s = .next { s with widths := ws, sym := s.sym ++ [.one] }) ∧
    (s.cfg.zeroLo < w.toNat → w.toNat < s.cfg.zeroHi →
      step s = .next { s with widths := ws, sym := s.sym ++ [.zero] }) ∧
    (¬(s.cfg.oneLo < w.toNat ∧ w.toNat < s.cfg.oneHi) → ¬(s.cfg.zeroLo < w.toNat ∧ w.toNat < s.cfg.zeroHi) →
      step s = .next { s with widths := ws, sym := s.sym ++ [.unclassified w] })

/-! ### SCN -/

/-- Rule R126, with the effects of rules R127 and R129: the window test at a position that was not tested yet, in both
modes. It is an exact comparison of the `L` symbols that end just before `CUR`, false when `CUR < L`. -/
def Obligations.WindowTestIsExactEquality : Prop :=
  ∀ s : State, configLegal s.cfg = true → s.widths = [] → s.wt = false → s.cur ≤ s.wp →
    let matched := s.cfg.len ≤ s.cur ∧ ∀ (j : Nat) (b : PatBit), s.cfg.pat[j]? = some b →
      s.sym[s.cur - s.cfg.len + j]? = some (match b with | .zero => Symbol.zero | .one => Symbol.one)
    (matched → step s = .next { s with
      out := s.out ++ [.sync s.cur], synced := true, acc := 0, nbits := 0, blk := [], wt := true }) ∧
    (¬matched → step s = .next { s with wt := true })

/-- Rule R127, whole: the entry actions, what they leave alone, and the example. -/
def Obligations.ScnTestMatchRule : Prop :=
  (∀ (y : Bool) (ws : List Symbol9) (s : State),
    exec (.scnTestMatch y ws) s = .next { s with
      out := s.out ++ [.sync s.cur], synced := true, acc := 0, nbits := 0, blk := [], wt := true }) ∧
  (∀ s : State, s.cfg = Config.reference → s.widths = [] →
    s.sym = List.replicate 40 .zero ++ (List.replicate 6 [Symbol.one, .one, .zero, .zero]).flatten →
    s.cur = 64 → s.wt = false → s.synced = false → s.out = [] →
    ∃ t, step s = .next t ∧ t.out = [.sync 64] ∧ t.synced = true ∧ t.acc = 0 ∧ t.nbits = 0 ∧ t.blk = [] ∧
      t.wt = true ∧ t.cur = 64 ∧ t.sym = s.sym ∧ t.blkidx = s.blkidx ∧ t.lastlos = s.lastlos ∧ t.high = s.high ∧
      t.dist = s.dist)

/-- Rule R129, whole: a miss writes `WT` only; and the example, 63 `Zero` and one `One`. -/
def Obligations.ScnTestMissRule : Prop :=
  (∀ (y : Bool) (ws : List Symbol9) (s : State), exec (.scnTestMiss y ws) s = .next { s with wt := true }) ∧
  (∀ s : State, s.cfg = Config.reference → s.widths = [] → s.sym = List.replicate 63 .zero ++ [Symbol.one] →
    s.cur = 64 → s.wt = false → step s = .next { s with wt := true })

/-- Rule R128: when SCN.ADV runs, what it does and leaves alone, whatever symbol is stepped over, and the example. -/
def Obligations.ScnAdvRule : Prop :=
  (∀ s : State, exec .scnAdv s = .next { s with cur := s.cur + 1, wt := false }) ∧
  (∀ s : State, configLegal s.cfg = true → s.widths = [] → s.wt = true → s.synced = false → s.wp ≥ s.cur + 1 →
    step s = .next { s with cur := s.cur + 1, wt := false } ∧ s.cur + 1 ≤ s.wp) ∧
  (∀ s : State, configLegal s.cfg = true → s.widths = [] → s.samples = [] → s.wt = true → s.synced = false →
    s.wp = s.cur → step s = .next s) ∧
  (∀ s : State, configLegal s.cfg = true → s.widths = [] → s.cur = 10 → s.wp = 11 → s.wt = true → s.synced = false →
    ∃ t, step s = .next t ∧ t.cur = 11 ∧ t.wt = false)

/-! ### FD -/

/-- Rule R141: eight shifts from a byte boundary append one byte whose bit `k` is the `k`-th bit clocked, whatever `ACC` held
before, and change nothing else; and the worked example, `0x05`. -/
def Obligations.EightShiftsAssembleAByteLsbFirst : Prop :=
  (∀ (s : State) (bs : List Bool), s.nbits = 0 → bs.length = 8 →
    ∃ b : Byte, (∀ k, k < 8 → b.getLsbD k = bs.getD k false) ∧
      bs.foldl (fun t x => shift x t) s = { s with blk := s.blk ++ [b], acc := 0, nbits := 0 }) ∧
  (∀ s : State, s.nbits = 0 → s.acc = 0 →
    [true, false, true, false, false, false, false, false].foldl (fun t x => shift x t) s =
      { s with blk := s.blk ++ [0x05#8], acc := 0, nbits := 0 })

/-- The pair test (rule R142): with the window tested, Synced and both symbols there, the kinds alone choose the
operation. -/
def Obligations.StepJudgesThePairByItsKinds : Prop :=
  ∀ (s : State) (a b : Symbol), configLegal s.cfg = true → s.widths = [] → s.wt = true → s.synced = true →
    s.sym[s.cur]? = some a → s.sym[s.cur + 1]? = some b →
    (a = .zero → b = .zero → step s = exec (.fdBit0 0 0) s) ∧
    (a = .one → b = .one → step s = exec (.fdBit1 0 0) s) ∧
    (¬(a = .zero ∧ b = .zero) → ¬(a = .one ∧ b = .one) → step s = exec (.fdLos a.word b.word) s)

/-- Rule R143, whole, with the byte commit of rule R145: the pairs that select FD.BIT0, its effect, before and on the eighth bit, and its example. -/
def Obligations.FdBit0Rule : Prop :=
  (∀ (c : Config) (a b : Symbol9),
    (∃ xa xb, decode c (.pair (pairWord a b)) = .ok (.fdBit0 xa xb)) ↔ a.kind = .zero ∧ b.kind = .zero) ∧
  (∀ (xa xb : BitVec 7) (s : State), s.nbits.toNat < 7 →
    exec (.fdBit0 xa xb) s = .next { s with
      acc := s.acc >>> 1, nbits := s.nbits + 1, cur := s.cur + 2, wt := false }) ∧
  (∀ (xa xb : BitVec 7) (s : State), s.nbits.toNat = 7 →
    exec (.fdBit0 xa xb) s = .next { s with
      blk := s.blk ++ [s.acc >>> 1], acc := 0, nbits := 0, cur := s.cur + 2, wt := false }) ∧
  (∀ (xa xb : BitVec 7) (s : State), s.acc = 0xA0#8 → s.nbits = 3 → s.cur = 70 →
    exec (.fdBit0 xa xb) s = .next { s with acc := 0x50#8, nbits := 4, cur := 72, wt := false })

/-- Rule R144, whole, with the byte commit of rule R145: the pairs that select FD.BIT1, its effect, before and on the eighth bit, and its two examples. -/
def Obligations.FdBit1Rule : Prop :=
  (∀ (c : Config) (a b : Symbol9),
    (∃ xa xb, decode c (.pair (pairWord a b)) = .ok (.fdBit1 xa xb)) ↔ a.kind = .one ∧ b.kind = .one) ∧
  (∀ (xa xb : BitVec 7) (s : State), s.nbits.toNat < 7 →
    exec (.fdBit1 xa xb) s = .next { s with
      acc := (s.acc >>> 1) ||| 0x80#8, nbits := s.nbits + 1, cur := s.cur + 2, wt := false }) ∧
  (∀ (xa xb : BitVec 7) (s : State), s.nbits.toNat = 7 →
    exec (.fdBit1 xa xb) s = .next { s with
      blk := s.blk ++ [(s.acc >>> 1) ||| 0x80#8], acc := 0, nbits := 0, cur := s.cur + 2, wt := false }) ∧
  (∀ (xa xb : BitVec 7) (s : State), s.acc = 0x40#8 → s.nbits = 2 → s.cur = 68 →
    exec (.fdBit1 xa xb) s = .next { s with acc := 0xA0#8, nbits := 3, cur := 70, wt := false }) ∧
  (∀ (xa xb : BitVec 7) (s : State), s.acc = 0xFE#8 → s.nbits = 7 → s.blk = [0x12#8] →
    exec (.fdBit1 xa xb) s = .next { s with
      blk := [0x12#8, 0xFF#8], acc := 0, nbits := 0, cur := s.cur + 2, wt := false })

/-- Rule R146: which pairs lose sync, and what a loss of sync emits, writes and leaves alone (`ACC` and `NBITS` among them, the spec's decision D17), for
every pair, an empty Block included; and the example. -/
def Obligations.FdLosRule : Prop :=
  (∀ (c : Config) (a b : Symbol9),
    (∃ p q, decode c (.pair (pairWord a b)) = .ok (.fdLos p q)) ↔
      ¬(a.kind = .zero ∧ b.kind = .zero) ∧ ¬(a.kind = .one ∧ b.kind = .one)) ∧
  (∀ (a b : Symbol9) (s : State),
    exec (.fdLos a b) s = .next { s with
      out := s.out ++ [.block s.blkidx s.cur (s.cur - s.lastlos) s.blk.length s.blk],
      blkidx := s.blkidx + 1, lastlos := s.cur, synced := false, blk := [], cur := s.cur + 1, wt := false }) ∧
  (∀ s : State, configLegal s.cfg = true → s.widths = [] → s.wt = true → s.synced = true → s.blk = [0x05#8] →
    s.blkidx = 0 → s.lastlos = 0 → s.cur = 80 → s.nbits = 0 → s.sym[80]? = some .one → s.sym[81]? = some .zero →
    step s = .next { s with
      out := s.out ++ [.block 0 80 80 1 [0x05#8]], blkidx := 1, lastlos := 80, synced := false, blk := [], cur := 81,
      wt := false })

/-! ### Whole-machine rules -/

/-- Rule R147: how far each operation moves `CUR`; a step never moves it back. -/
def Obligations.CursorMovesOnlyAsTheTableSays : Prop :=
  (∀ (i : Instr) (s t : State), exec i s = .next t →
    t.cur = s.cur + (match i with
      | .scnAdv => 1
      | .fdBit0 _ _ => 2
      | .fdBit1 _ _ => 2
      | .fdLos _ _ => 1
      | _ => 0)) ∧
  (∀ s t : State, step s = .next t → t.cur = s.cur ∨ t.cur = s.cur + 1 ∨ t.cur = s.cur + 2)

/-- The "written by" column of spec/10_state.md section 1, for every operation and every piece of state: whatever is not
named for an operation is unchanged by it. -/
def Obligations.OperationsWriteOnlyTheirState : Prop :=
  ∀ (i : Instr) (s t : State), exec i s = .next t →
    t.cfg = s.cfg ∧ t.samples = s.samples ∧
    (match i with | .zcdRise _ => True | .zcdFall _ => True | _ => t.high = s.high ∧ t.widths = s.widths) ∧
    (match i with | .zcdRise _ => True | .zcdFall _ => True | .zcdHold _ _ => True | _ => t.dist = s.dist) ∧
    (match i with | .clsOne _ => True | .clsZero _ => True | .clsUnc _ => True | _ => t.sym = s.sym ∧ t.wp = s.wp) ∧
    (match i with
      | .scnAdv => True | .fdBit0 _ _ => True | .fdBit1 _ _ => True | .fdLos _ _ => True
      | _ => t.cur = s.cur) ∧
    (match i with
      | .scnTestMatch _ _ => True | .scnTestMiss _ _ => True | .scnAdv => True | .fdBit0 _ _ => True
      | .fdBit1 _ _ => True | .fdLos _ _ => True | _ => t.wt = s.wt) ∧
    (match i with | .scnTestMatch _ _ => True | .fdLos _ _ => True | _ => t.synced = s.synced ∧ t.out = s.out) ∧
    (match i with
      | .scnTestMatch _ _ => True | .fdBit0 _ _ => True | .fdBit1 _ _ => True
      | _ => t.acc = s.acc ∧ t.nbits = s.nbits) ∧
    (match i with
      | .scnTestMatch _ _ => True | .fdBit0 _ _ => True | .fdBit1 _ _ => True | .fdLos _ _ => True
      | _ => t.blk = s.blk) ∧
    (match i with | .fdLos _ _ => True | _ => t.blkidx = s.blkidx ∧ t.lastlos = s.lastlos)

/-- The edges of rule R140's state graph over every step: Synced is entered only by a match, with a SYNC record and a fresh
Block, and left only by a loss of sync, with the BLOCK record of the Block in progress. -/
def Obligations.ModeChangesOnlyByMatchAndLossOfSync : Prop :=
  ∀ s t : State, step s = .next t →
    (s.synced = false → t.synced = true →
      s.wt = false ∧ t = { s with
        out := s.out ++ [.sync s.cur], synced := true, acc := 0, nbits := 0, blk := [], wt := true }) ∧
    (s.synced = true → t.synced = false →
      s.wt = true ∧ s.cur + 2 ≤ s.wp ∧ t = { s with
        out := s.out ++ [.block s.blkidx s.cur (s.cur - s.lastlos) s.blk.length s.blk],
        blkidx := s.blkidx + 1, lastlos := s.cur, synced := false, blk := [], cur := s.cur + 1, wt := false })

/-- Rules R36 and R174 over every step: the configuration never changes, records and symbols are only ever appended, and at
most one record at a time. -/
def Obligations.OutputAndSymbolsOnlyGrow : Prop :=
  ∀ s t : State, step s = .next t →
    t.cfg = s.cfg ∧ s.sym <+: t.sym ∧ s.out <+: t.out ∧ t.out.length ≤ s.out.length + 1 ∧ s.blkidx ≤ t.blkidx ∧
      s.cur ≤ t.cur

/-- Rule R39 as an inductive invariant, with what rules R134, R135, R153 to R156 and R185 say of `OUT`: whatever the state, if
it meets the invariant, so does the state a step answers. -/
def Obligations.StepKeepsTheInvariant : Prop :=
  ∀ s t : State, Inv s → step s = .next t → Inv t

/-- Rule R39 item 6: in a quiescent state that meets the invariant, the window is tested and the cursor stands where the rule
says. -/
def Obligations.QuiescentCursorStandsAtTheEnd : Prop :=
  ∀ s : State, Inv s → quiescent s = true →
    s.wt = true ∧ (s.synced = false → s.cur = s.wp) ∧ (s.synced = true → s.cur = s.wp ∨ s.cur + 1 = s.wp)

/-- Rules R141, R145 and R147 as an inductive invariant: while Synced, the Block in progress and the accumulator hold exactly
the bits of the accepted pairs since the last SYNC, eight to a byte, least significant first. -/
def Obligations.StepKeepsTheFrameContents : Prop :=
  ∀ s t : State, Inv s → frameAgrees s → step s = .next t → frameAgrees t

/-- Rule R180: from a state that meets the invariant every step answers a next state, and so does every run. -/
def Obligations.NoStepFaultsOrRefuses : Prop :=
  ∀ (n : Nat) (s : State), Inv s → ∃ t, Host.Core.run Sys2Proof.core n s = .next t

/-- Rule R168: after one `SymAppend` on a quiescent scan unit, at most four micro-operations make it quiescent again, and
they emit nothing, a SYNC, a BLOCK, or a BLOCK and then a SYNC. -/
def Obligations.FourMicroOperationsReachQuiescence : Prop :=
  ∀ (s : State) (y : Symbol), Inv s → quiescent s = true → s.widths = [] → s.samples = [] →
    ∃ t rs, Host.Core.run Sys2Proof.core 4 (symAppend y s) = .next t ∧ quiescent t = true ∧ t.out = s.out ++ rs ∧
      (rs = [] ∨ (∃ p, rs = [.sync p]) ∨ (∃ i p g l bs, rs = [.block i p g l bs]) ∨
        (∃ i p g l bs q, rs = [.block i p g l bs, .sync q]))

/-- Rules R64 and R172: an enabled micro-operation stays enabled, is the same operation and has the same effect, however many
more symbols are appended first. -/
def Obligations.EnabledMicroOperationSurvivesAppends : Prop :=
  ∀ (s : State) (ys : List Symbol) (x : OpWord), s.cur ≤ s.wp → scanWord s = some x →
    scanWord { s with sym := s.sym ++ ys } = some x ∧
    ∀ (i : Instr) (t : State), decode s.cfg x = .ok i → exec i s = .next t →
      exec i { s with sym := s.sym ++ ys } = .next { t with sym := t.sym ++ ys }

/-- Rules R137 and R175: the scan unit does not look at the detector or at samples. A step of the scan unit does the same
whatever `HIGH`, `DIST` and the waiting samples are, and leaves them alone. -/
def Obligations.ScanUnitIgnoresTheDetector : Prop :=
  ∀ (s t : State) (high : Bool) (d : BitVec 7) (vs : List Sample), s.widths = [] → quiescent s = false →
    step s = .next t →
      step { s with high := high, dist := d, samples := vs } =
        .next { t with high := high, dist := d, samples := vs } ∧
      t.high = s.high ∧ t.dist = s.dist ∧ t.samples = s.samples

/-- Rules R165 and R176: from a quiescent state that meets the invariant, at most six steps (one of ZCD, one of CLS, four of
the scan unit) consume one sample, end quiescent, and give the state that the reference pseudocode gives. -/
def Obligations.SampleStepIsTheReferencePseudocode : Prop :=
  ∀ (s : State) (v : Sample) (vs : List Sample), Inv s → quiescent s = true → s.widths = [] → s.samples = v :: vs →
    ∃ n, n ≤ 6 ∧
      Host.Core.run Sys2Proof.core n s = .next { sampleStep v s with samples := vs } ∧
      quiescent (sampleStep v s) = true ∧ (sampleStep v s).widths = []

/-- Rule R169: running the block on all the samples presented is the fold of the sample step over them. -/
def Obligations.RunIsTheFoldOfTheSampleStep : Prop :=
  ∀ s : State, Inv s → quiescent s = true → s.widths = [] →
    ∃ n, n ≤ 6 * s.samples.length ∧
      Host.Core.run Sys2Proof.core n s = .next { sampleRun s.samples s with samples := [] }

/-- Rules R119 and R175: the symbols a run appends are the retained widths, classified one by one, in order, none dropped and
none repeated. -/
def Obligations.SymbolsAreTheClassifiedWidths : Prop :=
  ∀ (s : State) (vs : List Sample), configLegal s.cfg = true →
    (sampleRun vs s).sym =
      s.sym ++ (retainedWidths s.cfg (fun d => min (d + 1) s.cfg.wmax) s.high s.dist.toNat vs).map
        (fun w => classify s.cfg (BitVec.ofNat 7 w))
end

