-- ==== Sys2Proof/Laws/Decode.lean ====
section
/-! SUPPORT. The small lemmas of the decoder and the encoder: the fields of a word that was put together from fields. -/

namespace Sys2Proof

@[simp] theorem kindOfBits_bits (k : SymKind) : kindOfBits k.bits = some k := by cases k <;> decide

/-- A two-bit word that stands for a kind is that kind's word. -/
theorem bits_of_kindOfBits : ∀ (b : BitVec 2) (k : SymKind), kindOfBits b = some k → k.bits = b := by
  intro b k h
  unfold kindOfBits at h
  split at h
  · cases h; subst b; rfl
  · split at h
    · cases h; subst b; rfl
    · split at h
      · cases h; subst b; rfl
      · cases h

@[simp] theorem Symbol9.bits_kind (a : Symbol9) : a.bits.extractLsb' 7 2 = a.kind.bits := by
  unfold Symbol9.bits
  apply BitVec.eq_of_getLsbD_eq
  intro i hi
  simp only [BitVec.getLsbD_extractLsb', BitVec.getLsbD_append]
  have : ¬ (7 + i < 7) := by omega
  simp [hi]

@[simp] theorem Symbol9.bits_width (a : Symbol9) : a.bits.extractLsb' 0 7 = a.width := by
  unfold Symbol9.bits
  apply BitVec.eq_of_getLsbD_eq
  intro i hi
  simp only [BitVec.getLsbD_extractLsb', BitVec.getLsbD_append]
  simp [hi]

@[simp] theorem decodeSymbol9_bits (a : Symbol9) : decodeSymbol9 a.bits = .ok a := by
  simp [decodeSymbol9]

@[simp] theorem decodeWindow_bits (ws : List Symbol9) : decodeWindow (ws.map Symbol9.bits) = .ok ws := by
  induction ws with
  | nil => rfl
  | cons a as ih => simp [decodeWindow, ih]

theorem zcdWord_high (high : Bool) (v : Sample) : (zcdWord high v).getLsbD 16 = high := by
  unfold zcdWord
  rw [BitVec.getLsbD_append]
  cases high <;> rfl

@[simp] theorem zcdWord_bit16 (high : Bool) (v : Sample) : (zcdWord high v)[16] = high := by
  rw [← BitVec.getLsbD_eq_getElem, zcdWord_high]

@[simp] theorem zcdWord_sample (high : Bool) (v : Sample) : (zcdWord high v).extractLsb' 0 16 = v := by
  apply BitVec.eq_of_getLsbD_eq
  intro i hi
  simp only [zcdWord, BitVec.getLsbD_extractLsb', BitVec.getLsbD_append]
  simp [hi]

theorem seqWord_wt (wt synced : Bool) : (seqWord wt synced).getLsbD 1 = wt := by
  cases wt <;> cases synced <;> rfl

theorem seqWord_synced (wt synced : Bool) : (seqWord wt synced).getLsbD 0 = synced := by
  cases wt <;> cases synced <;> rfl

@[simp] theorem seqWord_bit1 (wt synced : Bool) : (seqWord wt synced)[1] = wt := by
  cases wt <;> cases synced <;> rfl

@[simp] theorem seqWord_bit0 (wt synced : Bool) : (seqWord wt synced)[0] = synced := by
  cases wt <;> cases synced <;> rfl

@[simp] theorem pairWord_first (a b : Symbol9) : (pairWord a b).extractLsb' 9 9 = a.bits := by
  apply BitVec.eq_of_getLsbD_eq
  intro i hi
  simp only [pairWord, BitVec.getLsbD_extractLsb', BitVec.getLsbD_append]
  have : ¬ (9 + i < 9) := by omega
  simp [hi]

@[simp] theorem pairWord_second (a b : Symbol9) : (pairWord a b).extractLsb' 0 9 = b.bits := by
  apply BitVec.eq_of_getLsbD_eq
  intro i hi
  simp only [pairWord, BitVec.getLsbD_extractLsb', BitVec.getLsbD_append]
  simp [hi]

@[simp] theorem Symbol.word_kind (y : Symbol) : y.word.kind = y.kind := by cases y <;> rfl

/-- The stored form of a symbol is read back as the symbol. -/
@[simp] theorem symbolOfWord_word (y : Symbol) : symbolOfWord y.word = some y := by
  cases y <;> simp [symbolOfWord, Symbol.word]

end Sys2Proof
end

