-- ==== Sys2Proof/Laws/State.lean ====
section
/-! SUPPORT. One lemma per field per named operation, so that no proof unfolds a record update: what the operation writes,
and every field it leaves alone. -/

namespace Sys2Proof.Machine

/-- `WP` is the length of `SYM` (rule R31). -/
@[simp] theorem State.wp_eq_length (s : State) : s.wp = s.sym.length := rfl

/-! ### countSample -/

@[simp] theorem countSample_cfg (s : State) :
    (countSample s).cfg = s.cfg := rfl
@[simp] theorem countSample_high (s : State) :
    (countSample s).high = s.high := rfl
@[simp] theorem countSample_dist (s : State) :
    (countSample s).dist = BitVec.ofNat 7 (min (s.dist.toNat + 1) s.cfg.wmax) := rfl
@[simp] theorem countSample_sym (s : State) :
    (countSample s).sym = s.sym := rfl
@[simp] theorem countSample_cur (s : State) :
    (countSample s).cur = s.cur := rfl
@[simp] theorem countSample_wt (s : State) :
    (countSample s).wt = s.wt := rfl
@[simp] theorem countSample_synced (s : State) :
    (countSample s).synced = s.synced := rfl
@[simp] theorem countSample_acc (s : State) :
    (countSample s).acc = s.acc := rfl
@[simp] theorem countSample_nbits (s : State) :
    (countSample s).nbits = s.nbits := rfl
@[simp] theorem countSample_blk (s : State) :
    (countSample s).blk = s.blk := rfl
@[simp] theorem countSample_blkidx (s : State) :
    (countSample s).blkidx = s.blkidx := rfl
@[simp] theorem countSample_lastlos (s : State) :
    (countSample s).lastlos = s.lastlos := rfl
@[simp] theorem countSample_out (s : State) :
    (countSample s).out = s.out := rfl
@[simp] theorem countSample_samples (s : State) :
    (countSample s).samples = s.samples := rfl
@[simp] theorem countSample_widths (s : State) :
    (countSample s).widths = s.widths := rfl

/-! ### recordWidth -/

@[simp] theorem recordWidth_cfg (s : State) :
    (recordWidth s).cfg = s.cfg := rfl
@[simp] theorem recordWidth_high (s : State) :
    (recordWidth s).high = s.high := rfl
@[simp] theorem recordWidth_dist (s : State) :
    (recordWidth s).dist = 0 := rfl
@[simp] theorem recordWidth_sym (s : State) :
    (recordWidth s).sym = s.sym := rfl
@[simp] theorem recordWidth_cur (s : State) :
    (recordWidth s).cur = s.cur := rfl
@[simp] theorem recordWidth_wt (s : State) :
    (recordWidth s).wt = s.wt := rfl
@[simp] theorem recordWidth_synced (s : State) :
    (recordWidth s).synced = s.synced := rfl
@[simp] theorem recordWidth_acc (s : State) :
    (recordWidth s).acc = s.acc := rfl
@[simp] theorem recordWidth_nbits (s : State) :
    (recordWidth s).nbits = s.nbits := rfl
@[simp] theorem recordWidth_blk (s : State) :
    (recordWidth s).blk = s.blk := rfl
@[simp] theorem recordWidth_blkidx (s : State) :
    (recordWidth s).blkidx = s.blkidx := rfl
@[simp] theorem recordWidth_lastlos (s : State) :
    (recordWidth s).lastlos = s.lastlos := rfl
@[simp] theorem recordWidth_out (s : State) :
    (recordWidth s).out = s.out := rfl
@[simp] theorem recordWidth_samples (s : State) :
    (recordWidth s).samples = s.samples := rfl
@[simp] theorem recordWidth_widths (s : State) :
    (recordWidth s).widths = if s.dist.toNat < s.cfg.wmax then s.widths ++ [s.dist] else s.widths := rfl

/-! ### symAppend -/

@[simp] theorem symAppend_cfg (y : Symbol) (s : State) :
    (symAppend y s).cfg = s.cfg := rfl
@[simp] theorem symAppend_high (y : Symbol) (s : State) :
    (symAppend y s).high = s.high := rfl
@[simp] theorem symAppend_dist (y : Symbol) (s : State) :
    (symAppend y s).dist = s.dist := rfl
@[simp] theorem symAppend_sym (y : Symbol) (s : State) :
    (symAppend y s).sym = s.sym ++ [y] := rfl
@[simp] theorem symAppend_cur (y : Symbol) (s : State) :
    (symAppend y s).cur = s.cur := rfl
@[simp] theorem symAppend_wt (y : Symbol) (s : State) :
    (symAppend y s).wt = s.wt := rfl
@[simp] theorem symAppend_synced (y : Symbol) (s : State) :
    (symAppend y s).synced = s.synced := rfl
@[simp] theorem symAppend_acc (y : Symbol) (s : State) :
    (symAppend y s).acc = s.acc := rfl
@[simp] theorem symAppend_nbits (y : Symbol) (s : State) :
    (symAppend y s).nbits = s.nbits := rfl
@[simp] theorem symAppend_blk (y : Symbol) (s : State) :
    (symAppend y s).blk = s.blk := rfl
@[simp] theorem symAppend_blkidx (y : Symbol) (s : State) :
    (symAppend y s).blkidx = s.blkidx := rfl
@[simp] theorem symAppend_lastlos (y : Symbol) (s : State) :
    (symAppend y s).lastlos = s.lastlos := rfl
@[simp] theorem symAppend_out (y : Symbol) (s : State) :
    (symAppend y s).out = s.out := rfl
@[simp] theorem symAppend_samples (y : Symbol) (s : State) :
    (symAppend y s).samples = s.samples := rfl
@[simp] theorem symAppend_widths (y : Symbol) (s : State) :
    (symAppend y s).widths = s.widths := rfl

/-! ### blkAppend -/

@[simp] theorem blkAppend_cfg (b : Byte) (s : State) :
    (blkAppend b s).cfg = s.cfg := rfl
@[simp] theorem blkAppend_high (b : Byte) (s : State) :
    (blkAppend b s).high = s.high := rfl
@[simp] theorem blkAppend_dist (b : Byte) (s : State) :
    (blkAppend b s).dist = s.dist := rfl
@[simp] theorem blkAppend_sym (b : Byte) (s : State) :
    (blkAppend b s).sym = s.sym := rfl
@[simp] theorem blkAppend_cur (b : Byte) (s : State) :
    (blkAppend b s).cur = s.cur := rfl
@[simp] theorem blkAppend_wt (b : Byte) (s : State) :
    (blkAppend b s).wt = s.wt := rfl
@[simp] theorem blkAppend_synced (b : Byte) (s : State) :
    (blkAppend b s).synced = s.synced := rfl
@[simp] theorem blkAppend_acc (b : Byte) (s : State) :
    (blkAppend b s).acc = s.acc := rfl
@[simp] theorem blkAppend_nbits (b : Byte) (s : State) :
    (blkAppend b s).nbits = s.nbits := rfl
@[simp] theorem blkAppend_blk (b : Byte) (s : State) :
    (blkAppend b s).blk = s.blk ++ [b] := rfl
@[simp] theorem blkAppend_blkidx (b : Byte) (s : State) :
    (blkAppend b s).blkidx = s.blkidx := rfl
@[simp] theorem blkAppend_lastlos (b : Byte) (s : State) :
    (blkAppend b s).lastlos = s.lastlos := rfl
@[simp] theorem blkAppend_out (b : Byte) (s : State) :
    (blkAppend b s).out = s.out := rfl
@[simp] theorem blkAppend_samples (b : Byte) (s : State) :
    (blkAppend b s).samples = s.samples := rfl
@[simp] theorem blkAppend_widths (b : Byte) (s : State) :
    (blkAppend b s).widths = s.widths := rfl

/-! ### emit -/

@[simp] theorem emit_cfg (r : Record) (s : State) :
    (emit r s).cfg = s.cfg := rfl
@[simp] theorem emit_high (r : Record) (s : State) :
    (emit r s).high = s.high := rfl
@[simp] theorem emit_dist (r : Record) (s : State) :
    (emit r s).dist = s.dist := rfl
@[simp] theorem emit_sym (r : Record) (s : State) :
    (emit r s).sym = s.sym := rfl
@[simp] theorem emit_cur (r : Record) (s : State) :
    (emit r s).cur = s.cur := rfl
@[simp] theorem emit_wt (r : Record) (s : State) :
    (emit r s).wt = s.wt := rfl
@[simp] theorem emit_synced (r : Record) (s : State) :
    (emit r s).synced = s.synced := rfl
@[simp] theorem emit_acc (r : Record) (s : State) :
    (emit r s).acc = s.acc := rfl
@[simp] theorem emit_nbits (r : Record) (s : State) :
    (emit r s).nbits = s.nbits := rfl
@[simp] theorem emit_blk (r : Record) (s : State) :
    (emit r s).blk = s.blk := rfl
@[simp] theorem emit_blkidx (r : Record) (s : State) :
    (emit r s).blkidx = s.blkidx := rfl
@[simp] theorem emit_lastlos (r : Record) (s : State) :
    (emit r s).lastlos = s.lastlos := rfl
@[simp] theorem emit_out (r : Record) (s : State) :
    (emit r s).out = s.out ++ [r] := rfl
@[simp] theorem emit_samples (r : Record) (s : State) :
    (emit r s).samples = s.samples := rfl
@[simp] theorem emit_widths (r : Record) (s : State) :
    (emit r s).widths = s.widths := rfl

/-! ### advance -/

@[simp] theorem advance_cfg (n : Nat) (s : State) :
    (advance n s).cfg = s.cfg := rfl
@[simp] theorem advance_high (n : Nat) (s : State) :
    (advance n s).high = s.high := rfl
@[simp] theorem advance_dist (n : Nat) (s : State) :
    (advance n s).dist = s.dist := rfl
@[simp] theorem advance_sym (n : Nat) (s : State) :
    (advance n s).sym = s.sym := rfl
@[simp] theorem advance_cur (n : Nat) (s : State) :
    (advance n s).cur = s.cur + n := rfl
@[simp] theorem advance_wt (n : Nat) (s : State) :
    (advance n s).wt = false := rfl
@[simp] theorem advance_synced (n : Nat) (s : State) :
    (advance n s).synced = s.synced := rfl
@[simp] theorem advance_acc (n : Nat) (s : State) :
    (advance n s).acc = s.acc := rfl
@[simp] theorem advance_nbits (n : Nat) (s : State) :
    (advance n s).nbits = s.nbits := rfl
@[simp] theorem advance_blk (n : Nat) (s : State) :
    (advance n s).blk = s.blk := rfl
@[simp] theorem advance_blkidx (n : Nat) (s : State) :
    (advance n s).blkidx = s.blkidx := rfl
@[simp] theorem advance_lastlos (n : Nat) (s : State) :
    (advance n s).lastlos = s.lastlos := rfl
@[simp] theorem advance_out (n : Nat) (s : State) :
    (advance n s).out = s.out := rfl
@[simp] theorem advance_samples (n : Nat) (s : State) :
    (advance n s).samples = s.samples := rfl
@[simp] theorem advance_widths (n : Nat) (s : State) :
    (advance n s).widths = s.widths := rfl

/-! ### enterSync -/

@[simp] theorem enterSync_cfg (s : State) :
    (enterSync s).cfg = s.cfg := rfl
@[simp] theorem enterSync_high (s : State) :
    (enterSync s).high = s.high := rfl
@[simp] theorem enterSync_dist (s : State) :
    (enterSync s).dist = s.dist := rfl
@[simp] theorem enterSync_sym (s : State) :
    (enterSync s).sym = s.sym := rfl
@[simp] theorem enterSync_cur (s : State) :
    (enterSync s).cur = s.cur := rfl
@[simp] theorem enterSync_wt (s : State) :
    (enterSync s).wt = true := rfl
@[simp] theorem enterSync_synced (s : State) :
    (enterSync s).synced = true := rfl
@[simp] theorem enterSync_acc (s : State) :
    (enterSync s).acc = 0 := rfl
@[simp] theorem enterSync_nbits (s : State) :
    (enterSync s).nbits = 0 := rfl
@[simp] theorem enterSync_blk (s : State) :
    (enterSync s).blk = [] := rfl
@[simp] theorem enterSync_blkidx (s : State) :
    (enterSync s).blkidx = s.blkidx := rfl
@[simp] theorem enterSync_lastlos (s : State) :
    (enterSync s).lastlos = s.lastlos := rfl
@[simp] theorem enterSync_out (s : State) :
    (enterSync s).out = s.out ++ [.sync s.cur] := rfl
@[simp] theorem enterSync_samples (s : State) :
    (enterSync s).samples = s.samples := rfl
@[simp] theorem enterSync_widths (s : State) :
    (enterSync s).widths = s.widths := rfl

/-! ### loseSync -/

@[simp] theorem loseSync_cfg (s : State) :
    (loseSync s).cfg = s.cfg := rfl
@[simp] theorem loseSync_high (s : State) :
    (loseSync s).high = s.high := rfl
@[simp] theorem loseSync_dist (s : State) :
    (loseSync s).dist = s.dist := rfl
@[simp] theorem loseSync_sym (s : State) :
    (loseSync s).sym = s.sym := rfl
@[simp] theorem loseSync_cur (s : State) :
    (loseSync s).cur = s.cur + 1 := rfl
@[simp] theorem loseSync_wt (s : State) :
    (loseSync s).wt = false := rfl
@[simp] theorem loseSync_synced (s : State) :
    (loseSync s).synced = false := rfl
@[simp] theorem loseSync_acc (s : State) :
    (loseSync s).acc = s.acc := rfl
@[simp] theorem loseSync_nbits (s : State) :
    (loseSync s).nbits = s.nbits := rfl
@[simp] theorem loseSync_blk (s : State) :
    (loseSync s).blk = [] := rfl
@[simp] theorem loseSync_blkidx (s : State) :
    (loseSync s).blkidx = s.blkidx + 1 := rfl
@[simp] theorem loseSync_lastlos (s : State) :
    (loseSync s).lastlos = s.cur := rfl
@[simp] theorem loseSync_out (s : State) :
    (loseSync s).out = s.out ++ [.block s.blkidx s.cur (s.cur - s.lastlos) s.blk.length s.blk] := rfl
@[simp] theorem loseSync_samples (s : State) :
    (loseSync s).samples = s.samples := rfl
@[simp] theorem loseSync_widths (s : State) :
    (loseSync s).widths = s.widths := rfl

/-! ### present -/

@[simp] theorem present_cfg (v : Sample) (s : State) :
    (present v s).cfg = s.cfg := rfl
@[simp] theorem present_high (v : Sample) (s : State) :
    (present v s).high = s.high := rfl
@[simp] theorem present_dist (v : Sample) (s : State) :
    (present v s).dist = s.dist := rfl
@[simp] theorem present_sym (v : Sample) (s : State) :
    (present v s).sym = s.sym := rfl
@[simp] theorem present_cur (v : Sample) (s : State) :
    (present v s).cur = s.cur := rfl
@[simp] theorem present_wt (v : Sample) (s : State) :
    (present v s).wt = s.wt := rfl
@[simp] theorem present_synced (v : Sample) (s : State) :
    (present v s).synced = s.synced := rfl
@[simp] theorem present_acc (v : Sample) (s : State) :
    (present v s).acc = s.acc := rfl
@[simp] theorem present_nbits (v : Sample) (s : State) :
    (present v s).nbits = s.nbits := rfl
@[simp] theorem present_blk (v : Sample) (s : State) :
    (present v s).blk = s.blk := rfl
@[simp] theorem present_blkidx (v : Sample) (s : State) :
    (present v s).blkidx = s.blkidx := rfl
@[simp] theorem present_lastlos (v : Sample) (s : State) :
    (present v s).lastlos = s.lastlos := rfl
@[simp] theorem present_out (v : Sample) (s : State) :
    (present v s).out = s.out := rfl
@[simp] theorem present_samples (v : Sample) (s : State) :
    (present v s).samples = s.samples ++ [v] := rfl
@[simp] theorem present_widths (v : Sample) (s : State) :
    (present v s).widths = s.widths := rfl

/-! ### shift -/

@[simp] theorem shift_cfg (b : Bool) (s : State) :
    (shift b s).cfg = s.cfg := by unfold shift; split <;> rfl
@[simp] theorem shift_high (b : Bool) (s : State) :
    (shift b s).high = s.high := by unfold shift; split <;> rfl
@[simp] theorem shift_dist (b : Bool) (s : State) :
    (shift b s).dist = s.dist := by unfold shift; split <;> rfl
@[simp] theorem shift_sym (b : Bool) (s : State) :
    (shift b s).sym = s.sym := by unfold shift; split <;> rfl
@[simp] theorem shift_cur (b : Bool) (s : State) :
    (shift b s).cur = s.cur := by unfold shift; split <;> rfl
@[simp] theorem shift_wt (b : Bool) (s : State) :
    (shift b s).wt = s.wt := by unfold shift; split <;> rfl
@[simp] theorem shift_synced (b : Bool) (s : State) :
    (shift b s).synced = s.synced := by unfold shift; split <;> rfl
@[simp] theorem shift_acc (b : Bool) (s : State) :
    (shift b s).acc = if s.nbits.toNat + 1 = 8 then 0 else shiftIn s.acc b := by unfold shift; split <;> rfl
@[simp] theorem shift_nbits (b : Bool) (s : State) :
    (shift b s).nbits = if s.nbits.toNat + 1 = 8 then 0 else s.nbits + 1 := by unfold shift; split <;> rfl
@[simp] theorem shift_blk (b : Bool) (s : State) :
    (shift b s).blk = if s.nbits.toNat + 1 = 8 then s.blk ++ [shiftIn s.acc b] else s.blk := by unfold shift; split <;> rfl
@[simp] theorem shift_blkidx (b : Bool) (s : State) :
    (shift b s).blkidx = s.blkidx := by unfold shift; split <;> rfl
@[simp] theorem shift_lastlos (b : Bool) (s : State) :
    (shift b s).lastlos = s.lastlos := by unfold shift; split <;> rfl
@[simp] theorem shift_out (b : Bool) (s : State) :
    (shift b s).out = s.out := by unfold shift; split <;> rfl
@[simp] theorem shift_samples (b : Bool) (s : State) :
    (shift b s).samples = s.samples := by unfold shift; split <;> rfl
@[simp] theorem shift_widths (b : Bool) (s : State) :
    (shift b s).widths = s.widths := by unfold shift; split <;> rfl

end Sys2Proof.Machine
end

