-- ==== Sys2Proof/Laws/Ops.lean ====
section
/-! SUPPORT. What each shared operation can do, said once: the counter `DIST`, appending to `SYM`, the accumulator, the
conditions of the sequencer. -/

namespace Sys2Proof.Machine

/-- A legal configuration, spelled out (rule R6). -/
theorem configLegal_iff (c : Config) :
    configLegal c = true ↔
      (0 ≤ c.t ∧ c.t ≤ 32767) ∧ (2 ≤ c.wmax ∧ c.wmax ≤ 127) ∧ c.oneLo < c.oneHi ∧ c.oneHi ≤ c.zeroLo + 1 ∧
        c.zeroLo < c.zeroHi ∧ c.zeroHi ≤ c.wmax ∧ 1 ≤ c.len ∧ c.bitOrder = .lsbFirst := by
  simp [configLegal, and_assoc]

/-- `DIST` after counting, as an integer, where `WMAX` fits its seven bits (rules R21, R100). -/
theorem countSample_toNat (s : State) (h : s.cfg.wmax ≤ 127) :
    (countSample s).dist.toNat = min (s.dist.toNat + 1) s.cfg.wmax := by
  simp only [countSample_dist, BitVec.toNat_ofNat]
  omega

/-- Reading what was just appended (rule R52). -/
theorem symRead_symAppend_new (y : Symbol) (s : State) : symRead (symAppend y s) s.wp = y := by
  simp [symRead, List.getD]

/-- Appending leaves every symbol already written alone (rules R31, R52). -/
theorem symRead_symAppend_old (y : Symbol) (s : State) (i : Nat) (h : i < s.wp) :
    symRead (symAppend y s) i = symRead s i := by
  have h' : i < s.sym.length := h
  simp [symRead, List.getD, List.getElem?_append_left h']

/-- One more symbol (rule R52). -/
theorem symAppend_wp (y : Symbol) (s : State) : (symAppend y s).wp = s.wp + 1 := by
  simp [State.wp]

/-- The new bit is the accumulator's bit 7; every other bit is the one above it (rule R141). -/
theorem shiftIn_getLsbD (acc : BitVec 8) (b : Bool) (i : Nat) (h : i < 8) :
    (shiftIn acc b).getLsbD i = if i = 7 then b else acc.getLsbD (i + 1) := by
  have hi : i = 0 ∨ i = 1 ∨ i = 2 ∨ i = 3 ∨ i = 4 ∨ i = 5 ∨ i = 6 ∨ i = 7 := by omega
  rcases hi with rfl | rfl | rfl | rfl | rfl | rfl | rfl | rfl <;> cases b <;> simp [shiftIn]

/-- `shift` before the eighth bit (rule R141). -/
theorem shift_of_lt (b : Bool) (s : State) (h : s.nbits.toNat < 7) :
    shift b s = { s with acc := shiftIn s.acc b, nbits := s.nbits + 1 } := by
  unfold shift
  rw [if_neg (by omega)]

/-- `shift` on the eighth bit: the byte commit (rule R145). -/
theorem shift_of_eq (b : Bool) (s : State) (h : s.nbits.toNat = 7) :
    shift b s = { s with blk := s.blk ++ [shiftIn s.acc b], acc := 0, nbits := 0 } := by
  unfold shift
  rw [if_pos (by omega)]
  rfl

/-- Quiescence as rule R167 writes it. -/
theorem quiescent_iff (s : State) :
    quiescent s = true ↔
      s.wt = true ∧ ((s.synced = false ∧ s.wp ≤ s.cur) ∨ (s.synced = true ∧ s.wp ≤ s.cur + 1)) := by
  unfold quiescent testEnabled advEnabled pairEnabled
  cases s.wt <;> cases s.synced <;> simp
  omega

/-- No word exactly when quiescent (rules R166, R167). -/
theorem scanWord_eq_none_iff (s : State) : scanWord s = none ↔ quiescent s = true := by
  unfold scanWord quiescent
  cases testEnabled s <;> cases advEnabled s <;> cases pairEnabled s <;> simp

/-- Symbols read inside the window and the pair exist: `SymRead` never answers its default there (rule R51). -/
theorem symRead_eq_getElem (s : State) (i : Nat) (h : i < s.wp) : s.sym[i]? = some (symRead s i) := by
  have h' : i < s.sym.length := h
  simp [symRead, List.getD, List.getElem?_eq_getElem h']

end Sys2Proof.Machine
end

