-- ==== Sys2Proof/Laws/PerInstr.lean ====
section
/-! SUPPORT. Statements about every operation as syntax, one lemma per constructor. -/

/-- The fixed bits of an operation's row in spec/opcode_table.json ("match" and "mask"), in the word that encode gives it,
and the row's stage. -/
def Sys2Proof.Laws.TableBits.Statement (i : Sys2Proof.Instr) : Prop :=
  match i with
  | .zcdRise _ => ∃ x, Sys2Proof.encode i = .zcd x ∧ x.getLsbD 16 = false
  | .zcdFall _ => ∃ x, Sys2Proof.encode i = .zcd x ∧ x.getLsbD 16 = true
  | .zcdHold high _ => ∃ x, Sys2Proof.encode i = .zcd x ∧ x.getLsbD 16 = high
  | .clsOne w => Sys2Proof.encode i = .cls w
  | .clsZero w => Sys2Proof.encode i = .cls w
  | .clsUnc w => Sys2Proof.encode i = .cls w
  | .scnTestMatch y _ => ∃ x ws, Sys2Proof.encode i = .seq x ws ∧ x.getLsbD 1 = false ∧ x.getLsbD 0 = y
  | .scnTestMiss y _ => ∃ x ws, Sys2Proof.encode i = .seq x ws ∧ x.getLsbD 1 = false ∧ x.getLsbD 0 = y
  | .scnAdv => Sys2Proof.encode i = .seq 0b10#2 []
  | .fdBit0 _ _ => ∃ x, Sys2Proof.encode i = .pair x ∧ x.extractLsb' 16 2 = 0b00#2 ∧ x.extractLsb' 7 2 = 0b00#2
  | .fdBit1 _ _ => ∃ x, Sys2Proof.encode i = .pair x ∧ x.extractLsb' 16 2 = 0b01#2 ∧ x.extractLsb' 7 2 = 0b01#2
  | .fdLos a b => ∃ x, Sys2Proof.encode i = .pair x ∧ x.extractLsb' 16 2 = a.kind.bits ∧ x.extractLsb' 7 2 = b.kind.bits

namespace Sys2Proof

/-- The kinds of a pair of symbol words stand in bits 17..16 and 8..7 (rule R86). -/
theorem pairBits_kinds (a b : Symbol9) :
    (a.bits ++ b.bits : BitVec 18).extractLsb' 16 2 = a.kind.bits ∧
      (a.bits ++ b.bits : BitVec 18).extractLsb' 7 2 = b.kind.bits := by
  constructor
  · rw [← Symbol9.bits_kind a]
    apply BitVec.eq_of_getLsbD_eq
    intro i hi
    simp only [BitVec.getLsbD_extractLsb', BitVec.getLsbD_append]
    have h : ¬ (16 + i < 9) := by omega
    have h9 : 16 + i - 9 = 7 + i := by omega
    simp [hi, h, h9]
  · rw [← Symbol9.bits_kind b]
    apply BitVec.eq_of_getLsbD_eq
    intro i hi
    simp only [BitVec.getLsbD_extractLsb', BitVec.getLsbD_append]
    have h : 7 + i < 9 := by omega
    simp [hi, h]

end Sys2Proof

open Sys2Proof in
theorem Sys2Proof.Laws.TableBits.zcdRise (v : Sample) : Statement (.zcdRise v) := ⟨_, rfl, zcdWord_high false v⟩

open Sys2Proof in
theorem Sys2Proof.Laws.TableBits.zcdFall (v : Sample) : Statement (.zcdFall v) := ⟨_, rfl, zcdWord_high true v⟩

open Sys2Proof in
theorem Sys2Proof.Laws.TableBits.zcdHold (high : Bool) (v : Sample) : Statement (.zcdHold high v) :=
  ⟨_, rfl, zcdWord_high high v⟩

open Sys2Proof in
theorem Sys2Proof.Laws.TableBits.clsOne (w : Width) : Statement (.clsOne w) := rfl

open Sys2Proof in
theorem Sys2Proof.Laws.TableBits.clsZero (w : Width) : Statement (.clsZero w) := rfl

open Sys2Proof in
theorem Sys2Proof.Laws.TableBits.clsUnc (w : Width) : Statement (.clsUnc w) := rfl

open Sys2Proof in
theorem Sys2Proof.Laws.TableBits.scnTestMatch (y : Bool) (ws : List Symbol9) : Statement (.scnTestMatch y ws) :=
  ⟨_, _, rfl, seqWord_wt false y, seqWord_synced false y⟩

open Sys2Proof in
theorem Sys2Proof.Laws.TableBits.scnTestMiss (y : Bool) (ws : List Symbol9) : Statement (.scnTestMiss y ws) :=
  ⟨_, _, rfl, seqWord_wt false y, seqWord_synced false y⟩

open Sys2Proof in
theorem Sys2Proof.Laws.TableBits.scnAdv : Statement .scnAdv := rfl

open Sys2Proof in
theorem Sys2Proof.Laws.TableBits.fdBit0 (xa xb : BitVec 7) : Statement (.fdBit0 xa xb) :=
  ⟨_, rfl, pairBits_kinds ⟨.zero, xa⟩ ⟨.zero, xb⟩⟩

open Sys2Proof in
theorem Sys2Proof.Laws.TableBits.fdBit1 (xa xb : BitVec 7) : Statement (.fdBit1 xa xb) :=
  ⟨_, rfl, pairBits_kinds ⟨.one, xa⟩ ⟨.one, xb⟩⟩

open Sys2Proof in
theorem Sys2Proof.Laws.TableBits.fdLos (a b : Symbol9) : Statement (.fdLos a b) :=
  ⟨_, rfl, pairBits_kinds a b⟩
end

