-- ==== Sys2Proof/Laws/Step.lean ====
section
/-! SUPPORT. What a step can do, said once: it rests, or it performs the operation selected from one word. -/

namespace Sys2Proof.Machine

/-- Every operation answers a next state (rule R180). -/
theorem exec_next (i : Instr) (s : State) : ∃ t, exec i s = .next t := by
  cases i <;> exact ⟨_, rfl⟩

/-- The inversion of a step that goes on. -/
theorem step_next_cases {s t : State} (h : step s = .next t) :
    configLegal s.cfg = true ∧
      ((nextWord s = none ∧ t = s) ∨
        ∃ x s' i, nextWord s = some (x, s') ∧ decode s.cfg x = .ok i ∧ exec i s' = .next t) := by
  unfold step at h
  split at h
  · rename_i hl
    refine ⟨hl, ?_⟩
    split at h
    · rename_i hn
      exact .inl ⟨hn, by cases h; rfl⟩
    · rename_i x s' hn
      split at h
      · cases h
      · rename_i i hd
        exact .inr ⟨x, s', i, hn, hd, h⟩
  · cases h

/-- A run of no step. -/
theorem run_zero (s : State) : Host.Core.run Sys2Proof.core 0 s = .next s := rfl

/-- A run whose first step goes on. -/
theorem run_succ_of_next {n : Nat} {s t : State} (h : step s = .next t) :
    Host.Core.run Sys2Proof.core (n + 1) s = Host.Core.run Sys2Proof.core n t := by
  have h' : Host.Core.step Sys2Proof.core s = .next t := h
  simp only [Host.Core.run, h']

/-- The next word, when a width waits (rule R165, action 2). -/
theorem nextWord_width {s : State} {w : Width} {ws : List Width} (h : s.widths = w :: ws) :
    nextWord s = some (.cls w, { s with widths := ws }) := by
  simp [nextWord, h]

/-- The next word, when a micro-operation is enabled (rule R165, action 3). -/
theorem nextWord_scan {s : State} {x : OpWord} (h : s.widths = []) (hx : scanWord s = some x) :
    nextWord s = some (x, s) := by
  simp [nextWord, h, hx]

/-- The next word, when the scan unit is quiescent and a sample waits (rule R165, action 1). -/
theorem nextWord_sample {s : State} {v : Sample} {vs : List Sample} (h : s.widths = []) (hq : quiescent s = true)
    (hv : s.samples = v :: vs) : nextWord s = some (.zcd (zcdWord s.high v), { s with samples := vs }) := by
  simp [nextWord, h, (scanWord_eq_none_iff s).2 hq, hv]

/-- No word at rest (rule R167). -/
theorem nextWord_rest {s : State} (h : s.widths = []) (hq : quiescent s = true) (hv : s.samples = []) :
    nextWord s = none := by
  simp [nextWord, h, (scanWord_eq_none_iff s).2 hq, hv]

/-- The three sources of a word, and what is consumed with it. -/
theorem nextWord_cases {s s' : State} {x : OpWord} (h : nextWord s = some (x, s')) :
    (∃ w ws, s.widths = w :: ws ∧ x = .cls w ∧ s' = { s with widths := ws }) ∨
    (s.widths = [] ∧ scanWord s = some x ∧ s' = s) ∨
    (s.widths = [] ∧ quiescent s = true ∧
      ∃ v vs, s.samples = v :: vs ∧ x = .zcd (zcdWord s.high v) ∧ s' = { s with samples := vs }) := by
  unfold nextWord at h
  split at h
  · rename_i w ws hw
    cases h
    exact .inl ⟨w, ws, hw, rfl, rfl⟩
  · rename_i hw
    split at h
    · rename_i y hy
      cases h
      exact .inr (.inl ⟨hw, hy, rfl⟩)
    · rename_i hy
      split at h
      · rename_i v vs hv
        cases h
        exact .inr (.inr ⟨hw, (scanWord_eq_none_iff s).1 hy, v, vs, hv, rfl, rfl⟩)
      · cases h

/-- A ZCD17 word selects by rule R83. -/
theorem decode_zcdWord (c : Config) (high : Bool) (v : Sample) :
    decode c (.zcd (zcdWord high v)) = .ok (selectZcd c high v) := by
  simp [decode]

/-- A PAIR18 word selects by rule R142. -/
theorem decode_pairWord (c : Config) (a b : Symbol9) :
    decode c (.pair (pairWord a b)) = .ok (selectPair a b) := by
  simp [decode]

/-- The word of the scan unit, by the micro-operation that is enabled (rule R166). -/
theorem scanWord_cases {s : State} {x : OpWord} (h : scanWord s = some x) :
    (s.wt = false ∧ x = .seq (seqWord false s.synced) ((window s).map fun y => y.word.bits)) ∨
    (s.wt = true ∧ s.synced = false ∧ s.cur + 1 ≤ s.wp ∧ x = .seq (seqWord true false) []) ∨
    (s.wt = true ∧ s.synced = true ∧ s.cur + 2 ≤ s.wp ∧
      x = .pair (pairWord (symRead s s.cur).word (symRead s (s.cur + 1)).word)) := by
  unfold scanWord testEnabled advEnabled pairEnabled pairRead at h
  cases hw : s.wt <;> cases hs : s.synced <;> simp [hw, hs] at h ⊢
  · exact h.symm
  · exact h.symm
  · exact ⟨h.1, h.2.symm⟩
  · exact ⟨h.1, h.2.symm⟩

/-- The window word of stored symbols is read back. -/
theorem decodeWindow_words (ys : List Symbol) :
    decodeWindow (ys.map fun y => y.word.bits) = .ok (ys.map Symbol.word) := by
  have h := decodeWindow_bits (ys.map Symbol.word)
  simpa [List.map_map, Function.comp_def] using h

/-- The pair test, by the kinds (rule R142). -/
theorem selectPair_cases (a b : Symbol9) :
    (a.kind = .zero ∧ b.kind = .zero ∧ selectPair a b = .fdBit0 a.width b.width) ∨
    (a.kind = .one ∧ b.kind = .one ∧ selectPair a b = .fdBit1 a.width b.width) ∨
    (¬(a.kind = .zero ∧ b.kind = .zero) ∧ ¬(a.kind = .one ∧ b.kind = .one) ∧ selectPair a b = .fdLos a b) := by
  obtain ⟨ka, wa⟩ := a
  obtain ⟨kb, wb⟩ := b
  cases ka <;> cases kb <;> simp [selectPair]

/-- Everything a step that goes on can do, with all that it requires. -/
inductive StepCase (s : State) : State → Prop
  /-- At rest. -/
  | rest (hw : s.widths = []) (hq : quiescent s = true) (hv : s.samples = []) : StepCase s s
  /-- CLS. -/
  | classify (w : Width) (ws : List Width) (y : Symbol) (hw : s.widths = w :: ws) (h0 : 0 < w.toNat)
      (h1 : w.toNat < s.cfg.wmax)
      (hy : y = if s.cfg.oneLo < w.toNat ∧ w.toNat < s.cfg.oneHi then .one
        else if s.cfg.zeroLo < w.toNat ∧ w.toNat < s.cfg.zeroHi then .zero else .unclassified w) :
      StepCase s (symAppend y { s with widths := ws })
  /-- SCN.TEST.MATCH. -/
  | matched (hw : s.widths = []) (ht : s.wt = false)
      (hm : (window s).map Symbol.kind = s.cfg.pat.map PatBit.kind) : StepCase s (enterSync s)
  /-- SCN.TEST.MISS. -/
  | missed (hw : s.widths = []) (ht : s.wt = false)
      (hm : (window s).map Symbol.kind ≠ s.cfg.pat.map PatBit.kind) : StepCase s { s with wt := true }
  /-- SCN.ADV. -/
  | advanced (hw : s.widths = []) (ht : s.wt = true) (hs : s.synced = false) (hc : s.cur + 1 ≤ s.wp) :
      StepCase s (advance 1 s)
  /-- FD.BIT0 and FD.BIT1. -/
  | clocked (b : Bool) (hw : s.widths = []) (ht : s.wt = true) (hs : s.synced = true) (hc : s.cur + 2 ≤ s.wp)
      (ha : symRead s s.cur = if b then .one else .zero) (hb : symRead s (s.cur + 1) = if b then .one else .zero) :
      StepCase s (advance 2 (shift b s))
  /-- FD.LOS. -/
  | lost (hw : s.widths = []) (ht : s.wt = true) (hs : s.synced = true) (hc : s.cur + 2 ≤ s.wp)
      (h0 : ¬(symRead s s.cur = .zero ∧ symRead s (s.cur + 1) = .zero))
      (h1 : ¬(symRead s s.cur = .one ∧ symRead s (s.cur + 1) = .one)) : StepCase s (loseSync s)
  /-- ZCD.RISE and ZCD.FALL. -/
  | transition (v : Sample) (vs : List Sample) (hw : s.widths = []) (hq : quiescent s = true) (hv : s.samples = v :: vs)
      (hx : (s.high = false ∧ s.cfg.t < v.toInt) ∨ (s.high = true ∧ v.toInt < -s.cfg.t)) :
      StepCase s (recordWidth { countSample { s with samples := vs } with high := !s.high })
  /-- ZCD.HOLD. -/
  | held (v : Sample) (vs : List Sample) (hw : s.widths = []) (hq : quiescent s = true) (hv : s.samples = v :: vs)
      (hx : ¬((s.high = false ∧ s.cfg.t < v.toInt) ∨ (s.high = true ∧ v.toInt < -s.cfg.t))) :
      StepCase s (countSample { s with samples := vs })

theorem Symbol.eq_zero_of_word {y : Symbol} (h : y.word.kind = .zero) : y = .zero := by
  cases y <;> simp_all [Symbol.kind]

theorem Symbol.eq_one_of_word {y : Symbol} (h : y.word.kind = .one) : y = .one := by
  cases y <;> simp_all [Symbol.kind]

/-- The inversion of a step: with a legal configuration, one of the cases. -/
theorem step_cases {s t : State} (h : step s = .next t) : configLegal s.cfg = true ∧ StepCase s t := by
  obtain ⟨hl, ⟨hn, rfl⟩ | ⟨x, s', i, hn, hd, he⟩⟩ := step_next_cases h
  · refine ⟨hl, ?_⟩
    cases hw : t.widths with
    | cons w ws => simp [nextWord, hw] at hn
    | nil =>
      cases hx : scanWord t with
      | some x => simp [nextWord, hw, hx] at hn
      | none =>
        cases hv : t.samples with
        | cons v vs => simp [nextWord, hw, hx, hv] at hn
        | nil => exact .rest hw ((scanWord_eq_none_iff t).1 hx) hv
  refine ⟨hl, ?_⟩
  obtain ⟨w, ws, hw, rfl, rfl⟩ | ⟨hw, hs, rfl⟩ | ⟨hw, hq, v, vs, hv, rfl, rfl⟩ := nextWord_cases hn
  · simp only [decode] at hd
    split at hd
    · rename_i hb
      cases hd
      unfold selectCls at he
      split at he
      · rename_i h1; cases he; exact .classify w ws _ hw hb.1 hb.2 (by rw [if_pos h1])
      · rename_i h1
        split at he
        · rename_i h2; cases he; exact .classify w ws _ hw hb.1 hb.2 (by rw [if_neg h1, if_pos h2])
        · rename_i h2; cases he; exact .classify w ws _ hw hb.1 hb.2 (by rw [if_neg h1, if_neg h2])
    · cases hd
  · obtain ⟨h1, rfl⟩ | ⟨h1, h2, h3, rfl⟩ | ⟨h1, h2, h3, rfl⟩ := scanWord_cases hs
    · simp only [decode, decodeWindow_words, seqWord_wt, seqWord_synced] at hd
      cases hd
      unfold selectTest at he
      simp only [List.map_map, Function.comp_def, Symbol.word_kind] at he
      split at he
      · rename_i hm; cases he; exact .matched hw h1 hm
      · rename_i hm; cases he; exact .missed hw h1 hm
    · simp only [decode, decodeWindow] at hd
      cases hd
      cases he
      exact .advanced hw h1 h2 h3
    · rw [decode_pairWord] at hd
      cases hd
      obtain ⟨ha, hb, hp⟩ | ⟨ha, hb, hp⟩ | ⟨ha, hb, hp⟩ :=
        selectPair_cases (symRead s' s'.cur).word (symRead s' (s'.cur + 1)).word
      · rw [hp] at he
        cases he
        exact .clocked false hw h1 h2 h3 (Symbol.eq_zero_of_word ha) (Symbol.eq_zero_of_word hb)
      · rw [hp] at he
        cases he
        exact .clocked true hw h1 h2 h3 (Symbol.eq_one_of_word ha) (Symbol.eq_one_of_word hb)
      · rw [hp] at he
        cases he
        refine .lost hw h1 h2 h3 (fun h => ha ?_) (fun h => hb ?_)
        · rw [h.1, h.2]; exact ⟨rfl, rfl⟩
        · rw [h.1, h.2]; exact ⟨rfl, rfl⟩
  · rw [decode_zcdWord] at hd
    cases hd
    unfold selectZcd sampleValue at he
    have htr := StepCase.transition (s := s) v vs hw hq hv
    have hho := StepCase.held (s := s) v vs hw hq hv
    cases hh : s.high
    · rw [hh] at htr hho he
      simp only [Bool.false_eq_true, if_false] at he
      split at he
      · rename_i hx; cases he; exact htr (.inl ⟨rfl, hx⟩)
      · rename_i hx; cases he; exact hho (fun h => h.elim (fun h => hx h.2) (fun h => Bool.noConfusion h.1))
    · rw [hh] at htr hho he
      simp only [if_true] at he
      split at he
      · rename_i hx; cases he; exact htr (.inr ⟨rfl, hx⟩)
      · rename_i hx; cases he; exact hho (fun h => h.elim (fun h => Bool.noConfusion h.1) (fun h => hx h.2))

end Sys2Proof.Machine
end

