-- ==== Sys2Proof/Laws/Safety.lean ====
section
/-! SUPPORT. The small lemmas of the invariant's parts: reading one more record, and what a match says of the cursor. -/

namespace Sys2Proof.Machine

/-- One more record is read after all the others. -/
theorem replay_append (l : Nat) (g : Ledger) (rs : List Record) (r : Record) :
    Ledger.replay l g (rs ++ [r]) = (Ledger.replay l g rs).bind fun g' => g'.read l r := by
  induction rs generalizing g with
  | nil =>
    simp only [List.nil_append, Ledger.replay, Option.bind_some]
    cases g.read l r <;> rfl
  | cons a as ih =>
    simp only [List.cons_append, Ledger.replay]
    cases g.read l a <;> simp [ih]

/-- A window that equals a pattern of at least one element ends at `L` or later (rule R126). -/
theorem len_le_cur_of_match {s : State} (hl : 1 ≤ s.cfg.len)
    (hm : (window s).map Symbol.kind = s.cfg.pat.map PatBit.kind) : s.cfg.len ≤ s.cur := by
  by_contra hc
  have hw : window s = [] := by simp [window, hc]
  have h := congrArg List.length hm
  simp only [hw, List.map_nil, List.length_nil, List.length_map] at h
  have : s.cfg.len = 0 := h.symm
  omega

/-- The last SYNC after a SYNC is that one. -/
@[simp] theorem lastSyncPos_append_sync (rs : List Record) (p : Nat) : lastSyncPos (rs ++ [.sync p]) = some p := by
  induction rs with
  | nil => rfl
  | cons r rs ih => cases r <;> simp [lastSyncPos, ih]

/-- A BLOCK record leaves the last SYNC as it was. -/
@[simp] theorem lastSyncPos_append_block (rs : List Record) (i p g l : Nat) (bs : List Byte) :
    lastSyncPos (rs ++ [.block i p g l bs]) = lastSyncPos rs := by
  induction rs with
  | nil => rfl
  | cons r rs ih => cases r <;> simp [lastSyncPos, ih]

end Sys2Proof.Machine
end

