-- ==== Sys2Proof/Tests/Slice0.lean ====
section
/-! SUPPORT. The model's own tests. Expected results come from the examples inside the rules of spec/ and from
spec/95_test_vectors.md (the source of each is named beside it); the witnesses at the end meet the hypotheses of the
statements. -/

namespace Sys2Proof.Tests

open Sys2Proof Sys2Proof.Machine

/-! ### Helpers -/

/-- The next state of an outcome. -/
def nextOf (o : Host.Outcome State Fault Refusal) : Option State :=
  match o with
  | .next t => some t
  | _ => none

theorem next_of_map {α : Type} {f : State → α} {a : α} {o : Host.Outcome State Fault Refusal}
    (h : (nextOf o).map f = some a) : ∃ t, o = .next t ∧ f t = a := by
  cases o with
  | next t => exact ⟨t, rfl, by simpa [nextOf] using h⟩
  | fault r => exact nomatch r
  | refused r => exact absurd h (by simp [nextOf])

/-- The two-symbol pattern `O Z` of vectors S19 and S19b, everything else as the reference. -/
def cfgOZ : Config := { Config.reference with pat := [.one, .zero] }

/-- Overlapping bands. -/
def cfgOverlap : Config := { Config.reference with zeroLo := 10 }

/-- Reset state with the pattern `O Z`, the first window test made. -/
def rest : State := { State.resetWith cfgOZ with wt := true }

/-- A rest state with one sample presented. -/
def waiting (v : Sample) : State := { rest with samples := [v] }

/-- Synced at position 2 with one bit clocked (S19b after its fourth symbol). -/
def synced1 : State :=
  { rest with sym := [.one, .zero, .one, .one], cur := 4, synced := true, acc := 0x80, nbits := 1, out := [.sync 2] }

/-! ### Well-formedness: an ill-formed term for each check -/

theorem test_wf_rise_needs_more_than_T : Instr.wf Config.reference (.zcdRise 4000#16) = false := by decide
theorem test_wf_fall_needs_less_than_minus_T : Instr.wf Config.reference (.zcdFall 0xF060#16) = false := by decide
theorem test_wf_hold_low_stays_at_most_T : Instr.wf Config.reference (.zcdHold false 4001#16) = false := by decide
theorem test_wf_hold_high_stays_at_least_minus_T : Instr.wf Config.reference (.zcdHold true 0xF05F#16) = false := by
  decide
theorem test_wf_one_band_is_exclusive : Instr.wf Config.reference (.clsOne 15#7) = false := by decide
theorem test_wf_zero_band_is_exclusive : Instr.wf Config.reference (.clsZero 15#7) = false := by decide
theorem test_wf_unc_is_outside_the_bands : Instr.wf Config.reference (.clsUnc 20#7) = false := by decide
theorem test_wf_width_zero_is_reserved : Instr.wf Config.reference (.clsUnc 0#7) = false := by decide
theorem test_wf_width_wmax_is_reserved : Instr.wf Config.reference (.clsUnc 100#7) = false := by decide
theorem test_wf_match_needs_the_pattern : Instr.wf cfgOZ (.scnTestMatch false [⟨.one, 0⟩, ⟨.one, 0⟩]) = false := by
  decide
theorem test_wf_miss_is_not_the_pattern : Instr.wf cfgOZ (.scnTestMiss false [⟨.one, 0⟩, ⟨.zero, 0⟩]) = false := by
  decide
theorem test_wf_los_is_not_an_accepted_pair : Instr.wf cfgOZ (.fdLos ⟨.one, 0⟩ ⟨.one, 0⟩) = false := by decide

/-! ### Decoding: words written out from the encodings of spec/opcode_table.json -/

theorem test_decode_zcdRise : decode Config.reference (.zcd 0b00000111110100001#17) = .ok (.zcdRise 4001#16) := by
  decide
theorem test_decode_zcdFall : decode Config.reference (.zcd 0b11000000000000000#17) = .ok (.zcdFall 0x8000#16) := by
  decide
theorem test_decode_zcdHold : decode Config.reference (.zcd 0b11111000001100000#17) = .ok (.zcdHold true 0xF060#16) := by
  decide
theorem test_decode_clsOne : decode Config.reference (.cls 0b0000110#7) = .ok (.clsOne 6#7) := by decide
theorem test_decode_clsZero : decode Config.reference (.cls 0b0011000#7) = .ok (.clsZero 24#7) := by decide
theorem test_decode_clsUnc : decode Config.reference (.cls 0b0001111#7) = .ok (.clsUnc 15#7) := by decide
theorem test_decode_scnTestMatch :
    decode cfgOZ (.seq 0b01#2 [0b010000000#9, 0b000000000#9]) = .ok (.scnTestMatch true [⟨.one, 0⟩, ⟨.zero, 0⟩]) := by
  decide
theorem test_decode_scnTestMiss :
    decode cfgOZ (.seq 0b00#2 [0b010000000#9, 0b100011110#9]) =
      .ok (.scnTestMiss false [⟨.one, 0⟩, ⟨.unclassified, 30⟩]) := by
  decide
theorem test_decode_scnAdv : decode cfgOZ (.seq 0b10#2 []) = .ok .scnAdv := by decide
theorem test_decode_fdBit0 : decode cfgOZ (.pair 0b000000001000000010#18) = .ok (.fdBit0 1#7 2#7) := by decide
theorem test_decode_fdBit1 : decode cfgOZ (.pair 0b010000000010000000#18) = .ok (.fdBit1 0#7 0#7) := by decide
/-- The row (`U(30)`, `O`) of vector S18, `0x23C80`. -/
theorem test_decode_fdLos :
    decode cfgOZ (.pair 0x23C80#18) = .ok (.fdLos ⟨.unclassified, 30#7⟩ ⟨.one, 0#7⟩) := by decide
theorem test_decode_rejects_reserved_kind :
    decode cfgOZ (.pair 0b110000000000000000#18) = .error (.reservedKind 0b110000000#9) := by decide
theorem test_decode_rejects_width_0 : decode cfgOZ (.cls 0#7) = .error (.reservedWidth 0#7) := by decide
theorem test_decode_rejects_seq_11 : decode cfgOZ (.seq 0b11#2 []) = .error .pairWordExpected := by decide

/-- The SYMBOL9 words of section 2.7: `Z`, `O`, `U(1)`, `U(99)`. -/
theorem test_symbol9_words :
    [Symbol.zero, .one, .unclassified 1, .unclassified 99].map (fun y => y.word.bits) =
      [0x000#9, 0x080#9, 0x101#9, 0x163#9] := by
  decide

theorem test_table_word_of_bit0 : decodeTableWord 24 0x00000 = some (.fdBit0 0 0) := by decide
theorem test_table_word_of_bit1 : decodeTableWord 24 0x10080 = some (.fdBit1 0 0) := by decide
theorem test_table_word_of_adv : decodeTableWord 8 2 = some .scnAdv := by decide
theorem test_table_word_of_rise : decodeTableWord 24 0x01388 = some (.zcdRise 5000#16) := by decide

/-! ### One step each -/

/-- The example of rule R101: width 3. -/
theorem test_rise_example :
    (nextOf (step { waiting 5000#16 with dist := 2 })).map (fun t => (t.high, t.dist, t.widths)) =
      some (true, 0#7, [3#7]) := by
  decide

/-- Vector Z10, sample 99: a width that reaches `WMAX` is dropped. -/
theorem test_rise_drops_width_100 :
    (nextOf (step { waiting 5000#16 with dist := 99 })).map (fun t => (t.high, t.dist, t.widths)) =
      some (true, 0#7, []) := by
  decide

/-- The example of rule R102: width 4. -/
theorem test_fall_example :
    (nextOf (step { waiting 0xF05F#16 with dist := 3, high := true })).map (fun t => (t.high, t.dist, t.widths)) =
      some (false, 0#7, [4#7]) := by
  decide

/-- Vector Z7, sample 1: the most negative sample. -/
theorem test_fall_most_negative :
    (nextOf (step { waiting 0x8000#16 with high := true })).map (fun t => (t.high, t.dist, t.widths)) =
      some (false, 0#7, [1#7]) := by
  decide

/-- The example of rule R105. -/
theorem test_hold_example :
    (nextOf (step { waiting 0xF448#16 with dist := 1, high := true })).map (fun t => (t.high, t.dist, t.widths)) =
      some (true, 2#7, []) := by
  decide

/-- Rule R105: a sample below `-T` while `HIGH` = 0 holds (vector Z12), and `DIST` stays at `WMAX`. -/
theorem test_hold_saturates :
    (nextOf (step { waiting 0xEC78#16 with dist := 100 })).map (fun t => (t.high, t.dist, t.widths)) =
      some (false, 100#7, []) := by
  decide

/-- Table 2.2: w = 10, w = 14. -/
theorem test_cls_one :
    (nextOf (step { rest with widths := [10#7] })).map (fun t => (t.sym, t.widths)) = some ([.one], []) := by decide

/-- Table 2.2: w = 16. -/
theorem test_cls_zero :
    (nextOf (step { rest with widths := [16#7] })).map (fun t => (t.sym, t.widths)) = some ([.zero], []) := by decide

/-- Table 2.2: w = 25. -/
theorem test_cls_unc :
    (nextOf (step { rest with widths := [25#7] })).map (fun t => (t.sym, t.widths)) =
      some ([.unclassified 25#7], []) := by
  decide

/-- Vector S19, trace T6: `O Z` matches at 2. -/
theorem test_match_emits_sync :
    (nextOf (step { rest with sym := [.one, .zero], cur := 2, wt := false })).map
      (fun t => (t.out, t.synced, t.wt, t.cur)) = some ([.sync 2], true, true, 2) := by
  decide

/-- Trace T0: the first test after reset misses. -/
theorem test_miss_after_reset :
    (nextOf (step State.reset)).map (fun t => (t.out, t.synced, t.wt, t.cur)) = some ([], false, true, 0) := by
  decide

/-- The example of rule R128. -/
theorem test_adv_example :
    (nextOf (step { rest with sym := List.replicate 11 .zero, cur := 10 })).map (fun t => (t.cur, t.wt)) =
      some (11, false) := by
  decide

/-- The example of rule R143. -/
theorem test_bit0_example :
    (nextOf (exec (.fdBit0 0 0) { rest with acc := 0xA0, nbits := 3, cur := 70 })).map
      (fun t => (t.acc, t.nbits, t.cur, t.wt)) = some (0x50#8, 4#3, 72, false) := by
  decide

/-- Program G, step 19: the eighth bit commits the byte 0x01. -/
theorem test_bit0_commits :
    (nextOf (exec (.fdBit0 0 0) { rest with acc := 0x02, nbits := 7, cur := 18 })).map
      (fun t => (t.acc, t.nbits, t.blk, t.cur)) = some (0#8, 0#3, [0x01#8], 20) := by
  decide

/-- The first example of rule R144. -/
theorem test_bit1_example :
    (nextOf (exec (.fdBit1 0 0) { rest with acc := 0x40, nbits := 2, cur := 68 })).map
      (fun t => (t.acc, t.nbits, t.cur, t.wt)) = some (0xA0#8, 3#3, 70, false) := by
  decide

/-- The second example of rule R144. -/
theorem test_bit1_commits :
    (nextOf (exec (.fdBit1 0 0) { rest with acc := 0xFE, nbits := 7, blk := [0x12] })).map
      (fun t => (t.acc, t.nbits, t.blk)) = some (0#8, 0#3, [0x12#8, 0xFF#8]) := by
  decide

/-- The example of rule R146. -/
theorem test_los_example :
    (nextOf (exec (.fdLos ⟨.one, 0⟩ ⟨.zero, 0⟩) { rest with blk := [0x05], cur := 80, synced := true })).map
      (fun t => (t.out, (t.blkidx, t.lastlos, t.synced), (t.blk, t.cur, t.wt))) =
      some ([.block 0 80 80 1 [0x05#8]], (1, 80, false), ([], 81, false)) := by
  decide

/-- Vector S19b, trace T7, first micro-operation: the pair (`Z`, `O`) at 4; `ACC` and `NBITS` keep their values. -/
theorem test_los_keeps_the_partial_byte :
    (nextOf (step { synced1 with sym := synced1.sym ++ [.zero, .one] })).map
      (fun t => (t.out, t.cur, t.acc, t.nbits, t.synced)) =
      some ([.sync 2, .block 0 4 4 0 []], 5, 0x80#8, 1#3, false) := by
  decide

/-- The fetch word placed after reset is the next operation. -/
theorem test_withFetchWord :
    (nextOf (step (State.reset.withFetchWord 24 0x10080))).map (fun t => (t.acc, t.nbits)) = some (0x80#8, 1#3) ∧
    (nextOf (step (State.reset.withFetchWord 24 0x01388))).map (fun t => (t.high, t.widths)) = some (true, [1#7]) := by
  decide

/-! ### Witnesses: states and operands that meet the hypotheses of the statements -/

theorem rest_inv : Inv rest where
  legal := by decide
  distRange := by decide
  curRange := by decide
  symLegal := by intro y hy; cases hy
  oneWidth := by decide
  widthsLegal := by intro w hw; cases hw
  losRange := by decide
  losPassed := by decide
  blkSynced := by decide
  ledger := ⟨Ledger.empty, rfl, rfl, rfl, rfl, by decide, (by intro p hp; cases hp), by decide⟩

theorem waiting_inv (v : Sample) : Inv (waiting v) :=
  { rest_inv with }

theorem synced1_inv : Inv synced1 where
  legal := by decide
  distRange := by decide
  curRange := by decide
  symLegal := by
    intro y hy
    have h : y = .one ∨ y = .zero := by
      simp only [synced1, List.mem_cons, List.not_mem_nil, or_false] at hy
      tauto
    rcases h with rfl | rfl <;> trivial
  oneWidth := by decide
  widthsLegal := by intro w hw; cases hw
  losRange := by decide
  losPassed := by decide
  blkSynced := by decide
  ledger :=
    ⟨{ synced := true, blocks := 0, lastLos := 0, lastSync := some 2, lastPos := 2 }, by decide, rfl, rfl, rfl, by decide,
      (by intro p hp; cases hp; decide), fun _ => ⟨2, rfl, by decide⟩⟩

theorem synced1_frame : frameAgrees synced1 := by
  intro _
  refine ⟨2, [true], by decide, by decide, by decide, by decide, by decide, ?_, ?_⟩
  · intro k j hk; exact absurd hk (by simp [synced1, rest, State.resetWith])
  · intro j hj
    have : j = 0 := by
      have h1 : synced1.nbits.toNat = 1 := by decide
      omega
    subst this
    decide

theorem witness_ResetStateMeetsTheInvariants : configLegal cfgOZ = true ∧ configLegal Config.reference = true := by decide

theorem witness_resetAction_reference : State.reset.cfg = Config.reference := rfl

/-- A legal configuration, and a width in both bands of an illegal one. -/
theorem witness_LegalBandsAreDisjoint :
    configLegal Config.reference = true ∧ (cfgOverlap.oneLo < 11 ∧ 11 < cfgOverlap.oneHi) ∧
      (cfgOverlap.zeroLo < 11 ∧ 11 < cfgOverlap.zeroHi) := by
  decide

/-- Both sides of the equivalence hold somewhere and fail somewhere. -/
theorem witness_ConfigurationOutsideItsRangesIsRefused :
    configLegal { Config.reference with t := -1 } = false ∧ configLegal { Config.reference with t := 32768 } = false ∧
    configLegal { Config.reference with wmax := 128 } = false ∧ configLegal { Config.reference with wmax := 1 } = false ∧
    configLegal { Config.reference with pat := [] } = false ∧
    configLegal { Config.reference with bitOrder := .msbFirst } = false ∧ configLegal cfgOverlap = false ∧
    configLegal Config.reference = true := by
  decide

/-- Each row at the value where it meets its neighbour: `T` + 1, `T`, `-T` - 1, `-T`. -/
theorem witness_ZcdSelectionTable :
    Config.reference.t < (4001#16 : Sample).toInt ∧ (4000#16 : Sample).toInt ≤ Config.reference.t ∧
      (0xF05F#16 : Sample).toInt < -Config.reference.t ∧ -Config.reference.t ≤ (0xF060#16 : Sample).toInt := by
  decide

/-- The band edges of table 2.2. -/
theorem witness_ClsSelectionTable :
    (decode Config.reference (.cls 6#7) = .ok (.clsOne 6#7) ∧ decode Config.reference (.cls 14#7) = .ok (.clsOne 14#7)) ∧
    (decode Config.reference (.cls 16#7) = .ok (.clsZero 16#7) ∧ decode Config.reference (.cls 24#7) = .ok (.clsZero 24#7)) ∧
    (decode Config.reference (.cls 5#7) = .ok (.clsUnc 5#7) ∧ decode Config.reference (.cls 25#7) = .ok (.clsUnc 25#7)) := by
  decide

theorem witness_ReservedWordsAreRefused :
    configLegal { rest with widths := [0#7] }.cfg = true ∧ (0#7 : Width).toNat = 0 ∧
      rest.cfg.wmax ≤ (100#7 : Width).toNat ∧ (0x30000#18).extractLsb' 16 2 = 0b11#2 ∧
      (0x00180#18).extractLsb' 7 2 = 0b11#2 := by
  decide

theorem witness_PairWordSelection :
    ((0x00000#18).extractLsb' 16 2 = 0b00#2 ∧ (0x00000#18).extractLsb' 7 2 = 0b00#2) ∧
    ((0x10080#18).extractLsb' 16 2 = 0b01#2 ∧ (0x10080#18).extractLsb' 7 2 = 0b01#2) ∧
    ((0x23C80#18).extractLsb' 16 2 = 0b10#2 ∧ (0x23C80#18).extractLsb' 7 2 = 0b01#2) := by
  decide

theorem witness_DecodeOfEncodeIsTheOperation :
    Instr.wf Config.reference (.zcdRise 5000#16) = true ∧ Instr.wf Config.reference (.zcdFall 0x8000#16) = true ∧
    Instr.wf Config.reference (.zcdHold true 0#16) = true ∧ Instr.wf Config.reference (.clsOne 10#7) = true ∧
    Instr.wf Config.reference (.clsZero 20#7) = true ∧ Instr.wf Config.reference (.clsUnc 99#7) = true ∧
    Instr.wf cfgOZ (.scnTestMatch true [⟨.one, 0⟩, ⟨.zero, 0⟩]) = true ∧
    Instr.wf cfgOZ (.scnTestMiss true []) = true ∧ Instr.wf cfgOZ .scnAdv = true ∧
    Instr.wf cfgOZ (.fdBit0 1 2) = true ∧ Instr.wf cfgOZ (.fdBit1 3 4) = true ∧
    Instr.wf cfgOZ (.fdLos ⟨.one, 5⟩ ⟨.unclassified, 6⟩) = true := by
  decide

theorem witness_EncodeOfDecodeIsTheWord : decode cfgOZ (.pair 0x23C80#18) = .ok (.fdLos ⟨.unclassified, 30⟩ ⟨.one, 0⟩) := by
  decide

/-- A word from each of the three sources. -/
theorem witness_StepRunsTheDecodedOperation :
    (nextWord { rest with widths := [10#7] } = some (.cls 10#7, rest) ∧ decode rest.cfg (.cls 10#7) = .ok (.clsOne 10#7)) ∧
    (nextWord (waiting 5000#16) = some (.zcd (zcdWord false 5000#16), rest) ∧
      decode rest.cfg (.zcd (zcdWord false 5000#16)) = .ok (.zcdRise 5000#16)) ∧
    (nextWord { rest with wt := false } = some (.seq 0b00#2 [], { rest with wt := false }) ∧
      decode rest.cfg (.seq 0b00#2 []) = .ok (.scnTestMiss false [])) ∧
    configLegal rest.cfg = true := by
  decide

theorem witness_AtMostOneMicroOperationIsEnabled : rest.cur ≤ rest.wp ∧ synced1.cur ≤ synced1.wp := by decide

theorem witness_RestAndTheUnpairedSymbolWait :
    (configLegal rest.cfg = true ∧ rest.widths = [] ∧ rest.samples = [] ∧ quiescent rest = true) ∧
    (configLegal synced1.cfg = true ∧ synced1.widths = [] ∧ synced1.samples = [] ∧ synced1.wt = true ∧
      synced1.synced = true ∧ synced1.wp = synced1.cur) := by
  decide

/-- The hypotheses of ZcdRiseRule, ZcdFallRule and ZcdHoldRule: a legal configuration, `T` at its two ends, the examples,
and `DIST` = `WMAX`. -/
theorem witness_ZcdRules :
    configLegal rest.cfg = true ∧ (4000#16 : Sample).toInt = Config.reference.t ∧
    (0xF060#16 : Sample).toInt = -Config.reference.t ∧ Config.reference.t ≤ 32766 ∧
    ({ Config.reference with t := 32767 } : Config).t = 32767 ∧ ({ Config.reference with t := 0 } : Config).t = 0 ∧
    ({ State.reset with dist := 2 }.cfg = Config.reference ∧ { State.reset with dist := 2 }.high = false) ∧
    ({ State.reset with dist := 3, high := true }.dist = 3 ∧ { State.reset with dist := 3, high := true }.high = true) ∧
    ({ State.reset with dist := 1, high := true }.dist = 1) ∧
    { rest with dist := 100 }.dist.toNat = { rest with dist := 100 }.cfg.wmax := by
  decide

theorem witness_StepConsumesOneSample :
    configLegal rest.cfg = true ∧ (waiting 4001#16).widths = [] ∧ quiescent (waiting 4001#16) = true ∧
    ((waiting 4001#16).samples = [4001#16] ∧ (waiting 4001#16).high = false ∧ (4001#16 : Sample).toInt > rest.cfg.t) ∧
    ({ waiting 0xF05F#16 with high := true }.high = true ∧ (0xF05F#16 : Sample).toInt < -rest.cfg.t) ∧
    ((waiting 4000#16).high = false ∧ (4000#16 : Sample).toInt ≤ rest.cfg.t) := by
  decide

/-- A step that changes `HIGH` and one that does not. -/
theorem witness_WidthIsRecordedExactlyWhenHighChanges :
    (waiting 5000#16).high = false ∧ (∃ t, step (waiting 5000#16) = .next t ∧ t.high = true) ∧
    (waiting 0#16).high = false ∧ (∃ t, step (waiting 0#16) = .next t ∧ t.high = false) :=
  ⟨rfl, next_of_map (by decide), rfl, next_of_map (by decide)⟩

theorem witness_SamplesInsideTheBandCauseNothing :
    (waiting 4000#16).widths = [] ∧
    (∀ v ∈ (waiting 4000#16).samples,
      -(waiting 4000#16).cfg.t ≤ v.toInt ∧ v.toInt ≤ (waiting 4000#16).cfg.t) ∧
    ∃ t : State, Host.Core.run Sys2Proof.core 1 (waiting 4000#16) = .next t ∧ t.high = false := by
  refine ⟨rfl, ?_, ?_⟩
  · intro v hv
    obtain rfl : v = 4000#16 := by simpa [waiting] using hv
    decide
  obtain ⟨t, ht, hh⟩ : ∃ t, step (waiting 4000#16) = .next t ∧ t.high = false := next_of_map (by decide)
  refine ⟨t, ?_, hh⟩
  rw [run_succ_of_next (n := 0) ht, run_zero]

/-- The hypotheses of ClsOneRule, ClsZeroRule, ClsUncRule and StepClassifiesTheWaitingWidth, one width for each row. -/
theorem witness_ClsRules :
    configLegal rest.cfg = true ∧ State.reset.cfg = Config.reference ∧ { rest with widths := [6#7] }.widths = [6#7] ∧
    (0 < (6#7 : Width).toNat ∧ (6#7 : Width).toNat < rest.cfg.wmax ∧ rest.cfg.oneLo < (6#7 : Width).toNat ∧
      (6#7 : Width).toNat < rest.cfg.oneHi) ∧
    (rest.cfg.zeroLo < (24#7 : Width).toNat ∧ (24#7 : Width).toNat < rest.cfg.zeroHi) ∧
    (¬(rest.cfg.oneLo < (15#7 : Width).toNat ∧ (15#7 : Width).toNat < rest.cfg.oneHi) ∧
      ¬(rest.cfg.zeroLo < (15#7 : Width).toNat ∧ (15#7 : Width).toNat < rest.cfg.zeroHi)) := by
  decide

/-- An untested position, with a window that matches (both places compared) and one that does not. -/
theorem witness_WindowTestIsExactEquality :
    let s : State := { rest with sym := [.one, .zero], cur := 2, wt := false }
    let u : State := { rest with sym := [.one, .one], cur := 2, wt := false }
    configLegal s.cfg = true ∧ s.widths = [] ∧ s.wt = false ∧ s.cur ≤ s.wp ∧ s.cfg.len ≤ s.cur ∧
      (s.cfg.pat = [.one, .zero] ∧ s.sym[s.cur - s.cfg.len + 0]? = some Symbol.one ∧
        s.sym[s.cur - s.cfg.len + 1]? = some Symbol.zero) ∧
      (u.cfg.pat[1]? = some .zero ∧ u.sym[u.cur - u.cfg.len + 1]? ≠ some Symbol.zero) := by
  decide

/-- The states of the examples of rules R127 and R129. -/
theorem witness_ScnTestRules :
    let sym := List.replicate 40 Symbol.zero ++ (List.replicate 6 [Symbol.one, .one, .zero, .zero]).flatten
    let s : State := { State.reset with sym := sym, cur := 64 }
    let u : State := { State.reset with sym := List.replicate 63 .zero ++ [Symbol.one], cur := 64 }
    (s.cfg = Config.reference ∧ s.widths = [] ∧ s.wp = 64 ∧ s.cur = 64 ∧ s.wt = false ∧ s.synced = false ∧ s.out = []) ∧
      (u.cfg = Config.reference ∧ u.widths = [] ∧ u.cur = 64 ∧ u.wt = false) := by
  decide

theorem witness_ScnAdvRule :
    let s : State := { rest with sym := List.replicate 11 .zero, cur := 10 }
    (configLegal s.cfg = true ∧ s.widths = [] ∧ s.wt = true ∧ s.synced = false ∧ s.wp ≥ s.cur + 1 ∧ s.cur = 10 ∧
      s.wp = 11) ∧
    (rest.samples = [] ∧ rest.wt = true ∧ rest.synced = false ∧ rest.wp = rest.cur) := by
  decide

theorem witness_EightShiftsAssembleAByteLsbFirst :
    rest.nbits = 0 ∧ rest.acc = 0 ∧ { rest with acc := 0xFF }.nbits = 0 ∧ (List.replicate 8 true).length = 8 := by
  decide

/-- A pair for each of the three rows. -/
theorem witness_StepJudgesThePairByItsKinds :
    let z : State := { synced1 with sym := synced1.sym ++ [.zero, .zero] }
    let o : State := { synced1 with sym := synced1.sym ++ [.one, .one] }
    let m : State := { synced1 with sym := synced1.sym ++ [.zero, .unclassified 30] }
    configLegal z.cfg = true ∧ z.widths = [] ∧ z.wt = true ∧ z.synced = true ∧
      (z.sym[z.cur]? = some .zero ∧ z.sym[z.cur + 1]? = some .zero) ∧
      (o.sym[o.cur]? = some .one ∧ o.sym[o.cur + 1]? = some .one) ∧
      (m.sym[m.cur]? = some .zero ∧ m.sym[m.cur + 1]? = some (.unclassified 30)) := by
  decide

/-- The states of the examples of rules R143 and R144, before and on the eighth bit. -/
theorem witness_FdBitRules :
    let s : State := { rest with acc := 0xA0, nbits := 3, cur := 70 }
    let u : State := { rest with acc := 0x40, nbits := 2, cur := 68 }
    let v : State := { rest with acc := 0xFE, nbits := 7, blk := [0x12] }
    (s.acc = 0xA0#8 ∧ s.nbits = 3 ∧ s.cur = 70 ∧ s.nbits.toNat < 7) ∧ (u.acc = 0x40#8 ∧ u.nbits = 2 ∧ u.cur = 68) ∧
      (v.acc = 0xFE#8 ∧ v.nbits = 7 ∧ v.blk = [0x12#8] ∧ v.nbits.toNat = 7) := by
  decide

/-- The state of the example of rule R146. -/
theorem witness_FdLosRule :
    let s : State := { rest with
      sym := List.replicate 80 .zero ++ [.one, .zero], cur := 80, synced := true, blk := [0x05] }
    configLegal s.cfg = true ∧ s.widths = [] ∧ s.wt = true ∧ s.synced = true ∧ s.blk = [0x05#8] ∧ s.blkidx = 0 ∧
      s.lastlos = 0 ∧ s.cur = 80 ∧ s.nbits = 0 ∧ s.sym[80]? = some .one ∧ s.sym[81]? = some .zero := by
  decide

/-- The hypothesis of CursorMovesOnlyAsTheTableSays, OperationsWriteOnlyTheirState and OutputAndSymbolsOnlyGrow. -/
theorem witness_exec_and_step_go_on :
    (∃ t, exec .scnAdv rest = .next t) ∧ (∃ t, step (waiting 5000#16) = .next t ∧ t.high = true) :=
  ⟨⟨_, rfl⟩, next_of_map (by decide)⟩

/-- A step into Synced and a step out of it. -/
theorem witness_ModeChangesOnlyByMatchAndLossOfSync :
    (∃ t, step { rest with sym := [.one, .zero], cur := 2, wt := false } = .next t ∧ t.synced = true) ∧
    (∃ t, step { synced1 with sym := synced1.sym ++ [.zero, .one] } = .next t ∧ t.synced = false) :=
  ⟨next_of_map (by decide), next_of_map (by decide)⟩

/-- The hypotheses of StepKeepsTheInvariant, StepKeepsTheFrameContents, NoStepFaultsOrRefuses and
QuiescentCursorStandsAtTheEnd. -/
theorem witness_InvariantStatements :
    Inv synced1 ∧ frameAgrees synced1 ∧ quiescent synced1 = true ∧ ∃ t, step synced1 = .next t ∧ t.synced = true :=
  ⟨synced1_inv, synced1_frame, by decide, next_of_map (by decide)⟩

theorem witness_FourMicroOperationsReachQuiescence :
    Inv synced1 ∧ quiescent synced1 = true ∧ synced1.widths = [] ∧ synced1.samples = [] :=
  ⟨synced1_inv, by decide, rfl, rfl⟩

theorem witness_EnabledMicroOperationSurvivesAppends :
    let s : State := { rest with wt := false }
    s.cur ≤ s.wp ∧ scanWord s = some (.seq 0b00#2 []) ∧
      decode s.cfg (.seq 0b00#2 []) = .ok (.scnTestMiss false []) := by
  decide

theorem witness_ScanUnitIgnoresTheDetector :
    { rest with wt := false }.widths = [] ∧ quiescent { rest with wt := false } = false ∧
      ∃ t, step { rest with wt := false } = .next t ∧ t.wt = true :=
  ⟨rfl, by decide, next_of_map (by decide)⟩

/-- The hypotheses of SampleStepIsTheReferencePseudocode and RunIsTheFoldOfTheSampleStep. -/
theorem witness_SampleStepStatements :
    Inv (waiting 5000#16) ∧ quiescent (waiting 5000#16) = true ∧ (waiting 5000#16).widths = [] ∧
      (waiting 5000#16).samples = [5000#16] :=
  ⟨waiting_inv _, by decide, rfl, rfl⟩

theorem witness_SymbolsAreTheClassifiedWidths : configLegal State.reset.cfg = true := by decide

end Sys2Proof.Tests
end

section
/-! SUPPORT. The bands of a configuration (spec/00_scope.md rules R6 and R7). -/

namespace Sys2Proof.Machine

/-- The two bands of a legal configuration have no width in common: `ONE_HI ≤ ZERO_LO + 1` (rules R6, R7). -/
theorem bands_disjoint_of_configLegal {c : Config} (h : configLegal c = true) (w : Nat) :
    ¬((c.oneLo < w ∧ w < c.oneHi) ∧ (c.zeroLo < w ∧ w < c.zeroHi)) := by
  obtain ⟨-, -, -, hOneHi, -⟩ := (configLegal_iff c).1 h
  omega

/-- An illegal configuration is refused, whatever else the state holds (rule R88). -/
theorem step_of_not_configLegal {s : State} (h : ¬configLegal s.cfg = true) :
    step s = .refused .illegalConfiguration :=
  if_neg h

theorem reference_oneBand_iff (w : Nat) :
    (Config.reference.oneLo < w ∧ w < Config.reference.oneHi) ↔ (6 ≤ w ∧ w ≤ 14) := by
  simp only [Config.reference]
  omega

theorem reference_zeroBand_iff (w : Nat) :
    (Config.reference.zeroLo < w ∧ w < Config.reference.zeroHi) ↔ (16 ≤ w ∧ w ≤ 24) := by
  simp only [Config.reference]
  omega

/-- Settles O3: `ONE_HI ≤ ZERO_LO + 1` separates the bands, so a configuration with a width in both is not legal and
step refuses it. -/
theorem legalBandsAreDisjoint : Obligations.LegalBandsAreDisjoint :=
  ⟨fun _ w hLegal => bands_disjoint_of_configLegal hLegal w, reference_oneBand_iff, reference_zeroBand_iff,
    fun _ w hBoth => step_of_not_configLegal fun hLegal => bands_disjoint_of_configLegal hLegal w hBoth⟩

end Sys2Proof.Machine
end

section
/-! SUPPORT. The rows of the selection table of ZCD (spec/30_encoding.md rule R83). -/

namespace Sys2Proof

variable {c : Config} {v : Sample}

theorem selectZcd_low_above (h : c.t < v.toInt) : selectZcd c false v = .zcdRise v := by
  simp [selectZcd, sampleValue, h]

theorem selectZcd_low_notAbove (h : v.toInt ≤ c.t) : selectZcd c false v = .zcdHold false v := by
  simp [selectZcd, sampleValue, not_lt.2 h]

theorem selectZcd_high_below (h : v.toInt < -c.t) : selectZcd c true v = .zcdFall v := by
  simp [selectZcd, sampleValue, h]

theorem selectZcd_high_notBelow (h : -c.t ≤ v.toInt) : selectZcd c true v = .zcdHold true v := by
  simp [selectZcd, sampleValue, not_lt.2 h]

/-- Some row of rule R83 applies: for each `HIGH` its two comparisons leave no sample out. -/
theorem zcdRows_exhaustive (c : Config) (high : Bool) (v : Sample) :
    (high = false ∧ c.t < v.toInt) ∨ (high = false ∧ v.toInt ≤ c.t) ∨ (high = true ∧ v.toInt < -c.t) ∨
      (high = true ∧ -c.t ≤ v.toInt) := by
  cases high with
  | false => exact (lt_or_ge c.t v.toInt).imp (⟨rfl, ·⟩) fun h => .inl ⟨rfl, h⟩
  | true => exact .inr (.inr ((lt_or_ge v.toInt (-c.t)).imp (⟨rfl, ·⟩) (⟨rfl, ·⟩)))

end Sys2Proof

namespace Sys2Proof.Machine

/-- Settles O5: a ZCD17 word selects by `selectZcd`, whose rows are split by `HIGH` and by one strict comparison with `T`
or `-T`, so the two rows of each `HIGH` are complementary. -/
theorem zcdSelectionTable : Obligations.ZcdSelectionTable := by
  intro c high v
  rw [decode_zcdWord]
  refine ⟨?rise, ?holdLow, ?fall, ?holdHigh, zcdRows_exhaustive c high v, ?lowExclusive, ?highExclusive⟩
  case rise => rintro rfl h; rw [selectZcd_low_above h]
  case holdLow => rintro rfl h; rw [selectZcd_low_notAbove h]
  case fall => rintro rfl h; rw [selectZcd_high_below h]
  case holdHigh => rintro rfl h; rw [selectZcd_high_notBelow h]
  case lowExclusive => exact fun ⟨⟨_, hAbove⟩, _, hNotAbove⟩ => hAbove.not_ge hNotAbove
  case highExclusive => exact fun ⟨⟨_, hBelow⟩, _, hNotBelow⟩ => hBelow.not_ge hNotBelow

end Sys2Proof.Machine
end

section
/-! SUPPORT. When each ZCD operation is selected and what it does (spec/40_zcd.md rules R101, R102 and R105). -/

namespace Sys2Proof

variable {c : Config} {high : Bool} {v : Sample}

theorem selectZcd_eq_rise_iff : selectZcd c high v = .zcdRise v ↔ high = false ∧ c.t < v.toInt := by
  obtain ⟨rfl, h⟩ | ⟨rfl, h⟩ | ⟨rfl, h⟩ | ⟨rfl, h⟩ := zcdRows_exhaustive c high v
  · simp [selectZcd_low_above h, h]
  · simp [selectZcd_low_notAbove h, h]
  · simp [selectZcd_high_below h]
  · simp [selectZcd_high_notBelow h]

theorem selectZcd_eq_fall_iff : selectZcd c high v = .zcdFall v ↔ high = true ∧ v.toInt < -c.t := by
  obtain ⟨rfl, h⟩ | ⟨rfl, h⟩ | ⟨rfl, h⟩ | ⟨rfl, h⟩ := zcdRows_exhaustive c high v
  · simp [selectZcd_low_above h]
  · simp [selectZcd_low_notAbove h]
  · simp [selectZcd_high_below h, h]
  · simp [selectZcd_high_notBelow h, h]

theorem selectZcd_eq_hold_iff :
    selectZcd c high v = .zcdHold high v ↔
      (high = false ∧ v.toInt ≤ c.t) ∨ (high = true ∧ v.toInt ≥ -c.t) := by
  obtain ⟨rfl, h⟩ | ⟨rfl, h⟩ | ⟨rfl, h⟩ | ⟨rfl, h⟩ := zcdRows_exhaustive c high v
  · simp [selectZcd_low_above h, h]
  · simp [selectZcd_low_notAbove h, h]
  · simp [selectZcd_high_below h, h]
  · simp [selectZcd_high_notBelow h, h]

theorem decode_zcdWord_eq_ok_iff {i : Instr} :
    decode c (.zcd (zcdWord high v)) = .ok i ↔ selectZcd c high v = i := by
  rw [Machine.decode_zcdWord, Except.ok.injEq]

theorem decode_zcdWord_eq_rise_iff :
    decode c (.zcd (zcdWord high v)) = .ok (.zcdRise v) ↔ high = false ∧ c.t < v.toInt :=
  decode_zcdWord_eq_ok_iff.trans selectZcd_eq_rise_iff

theorem decode_zcdWord_eq_fall_iff :
    decode c (.zcd (zcdWord high v)) = .ok (.zcdFall v) ↔ high = true ∧ v.toInt < -c.t :=
  decode_zcdWord_eq_ok_iff.trans selectZcd_eq_fall_iff

theorem decode_zcdWord_eq_hold_iff :
    decode c (.zcd (zcdWord high v)) = .ok (.zcdHold high v) ↔
      (high = false ∧ v.toInt ≤ c.t) ∨ (high = true ∧ v.toInt ≥ -c.t) :=
  decode_zcdWord_eq_ok_iff.trans selectZcd_eq_hold_iff

/-- The largest sample is 32767 (rule R75). -/
theorem Sample.toInt_le (v : Sample) : v.toInt ≤ 32767 := by
  have := BitVec.toInt_lt (x := v)
  omega

end Sys2Proof

namespace Sys2Proof.Machine

theorem wmax_le_of_configLegal {c : Config} (h : configLegal c = true) : c.wmax ≤ 127 := by
  obtain ⟨-, ⟨-, hWmax⟩, -⟩ := (configLegal_iff c).1 h
  exact hWmax

/-- `s` after a transition to `high`: the sample is counted, `DIST` cleared and the width retained if it is below `WMAX`
(rules R100, R103, R104). -/
def afterTransition (high : Bool) (s : State) : State :=
  let w := min (s.dist.toNat + 1) s.cfg.wmax
  { s with
    high := high, dist := 0,
    widths := if w < s.cfg.wmax then s.widths ++ [BitVec.ofNat 7 w] else s.widths }

/-- The width the model takes from the seven bits of `DIST` is the counted one, because `WMAX` fits them. -/
theorem recordWidth_countSample (high : Bool) {s : State} (h : configLegal s.cfg = true) :
    recordWidth { countSample s with high := high } = afterTransition high s := by
  rw [afterTransition, ← countSample_toNat s (wmax_le_of_configLegal h), BitVec.ofNat_toNat, BitVec.setWidth_eq]
  rfl

theorem exec_zcdRise (v : Sample) {s : State} (h : configLegal s.cfg = true) :
    exec (.zcdRise v) s = .next (afterTransition true s) :=
  congrArg Host.Outcome.next (recordWidth_countSample true h)

theorem exec_zcdFall (v : Sample) {s : State} (h : configLegal s.cfg = true) :
    exec (.zcdFall v) s = .next (afterTransition false s) :=
  congrArg Host.Outcome.next (recordWidth_countSample false h)

theorem exec_zcdHold (high : Bool) (v : Sample) (s : State) : exec (.zcdHold high v) s = .next (countSample s) := rfl

/-- The counter stays at `WMAX` (rules R21, R100). -/
theorem countSample_of_saturated {s : State} (h : s.dist.toNat = s.cfg.wmax) : countSample s = s := by
  simp [countSample, ← h]

theorem reference_legal : configLegal Config.reference = true := by decide

/-- Settles O15: the selection is row 1 of rule R83, the effect is the shared transition, and each corner case and the
example follow from these two. -/
theorem zcdRiseRule : Obligations.ZcdRiseRule := by
  refine ⟨fun _ _ _ => decode_zcdWord_eq_rise_iff, fun v _ h => exec_zcdRise v h, ?notAboveT, ?largest, ?ex⟩
  case notAboveT =>
    intro c high v hT hRise
    obtain ⟨-, hAbove⟩ := decode_zcdWord_eq_rise_iff.1 hRise
    have := Sample.toInt_le v
    omega
  case largest =>
    intro c hT
    have hMax : (0x7FFF#16 : Sample).toInt = 32767 := by decide
    exact decode_zcdWord_eq_rise_iff.2 ⟨rfl, by omega⟩
  case ex =>
    intro s hCfg hHigh hDist
    refine ⟨decode_zcdWord_eq_rise_iff.2 ⟨hHigh, by rw [hCfg]; decide⟩, ?_⟩
    rw [exec_zcdRise _ (hCfg ▸ reference_legal), afterTransition, hCfg, hDist]
    rfl

/-- Settles O16: the selection is row 3 of rule R83, the effect is the shared transition, and each corner case and the
example follow from these two. -/
theorem zcdFallRule : Obligations.ZcdFallRule := by
  refine ⟨fun _ _ _ => decode_zcdWord_eq_fall_iff, fun v _ h => exec_zcdFall v h, ?minusT, ?smallest, ?signTests, ?ex⟩
  case minusT =>
    intro c high v hT hFall
    obtain ⟨-, hBelow⟩ := decode_zcdWord_eq_fall_iff.1 hFall
    omega
  case smallest =>
    intro c h
    obtain ⟨⟨-, hT⟩, -⟩ := (configLegal_iff c).1 h
    have hMin : (0x8000#16 : Sample).toInt = -32768 := by decide
    exact decode_zcdWord_eq_fall_iff.2 ⟨rfl, by omega⟩
  case signTests =>
    intro c high v hT
    rw [decode_zcdWord_eq_rise_iff, decode_zcdWord_eq_fall_iff, decode_zcdWord_eq_hold_iff, hT]
    exact ⟨.rfl, .rfl, by cases high <;> simp⟩
  case ex =>
    intro s hCfg hHigh hDist
    refine ⟨decode_zcdWord_eq_fall_iff.2 ⟨hHigh, by rw [hCfg]; decide⟩, ?_⟩
    rw [exec_zcdFall _ (hCfg ▸ reference_legal), afterTransition, hCfg, hDist]
    rfl

/-- Settles O17: HOLD is rows 2 and 4 of rule R83, and its effect is `countSample`, which leaves a saturated counter alone;
that the band lies on the HOLD side of both comparisons needs `0 ≤ T`. -/
theorem zcdHoldRule : Obligations.ZcdHoldRule := by
  refine ⟨fun _ _ _ => decode_zcdWord_eq_hold_iff, fun high v s _ => exec_zcdHold high v s, ?band, ?saturated, ?ex⟩
  case band =>
    intro c high v h hBand
    obtain ⟨⟨hT, -⟩, -⟩ := (configLegal_iff c).1 h
    rw [decode_zcdWord_eq_hold_iff]
    obtain ⟨hLo, hHi⟩ | ⟨rfl, hAbove⟩ | ⟨rfl, hBelow⟩ := hBand
    · cases high with
      | false => exact .inl ⟨rfl, hHi⟩
      | true => exact .inr ⟨rfl, hLo⟩
    · exact .inr ⟨rfl, by omega⟩
    · exact .inl ⟨rfl, by omega⟩
  case saturated =>
    intro high v s _ hDist
    rw [exec_zcdHold, countSample_of_saturated hDist]
  case ex =>
    intro s hCfg hHigh hDist
    refine ⟨?_, ?_⟩
    · rw [hHigh, hCfg]
      exact decode_zcdWord_eq_hold_iff.2 (.inr ⟨rfl, by decide⟩)
    · rw [exec_zcdHold, countSample, hCfg, hDist]
      rfl

end Sys2Proof.Machine
end

section
/-! SUPPORT. The rows of the selection table of CLS (spec/30_encoding.md rule R84), and what each CLS operation does
(spec/41_classifier.md rules R116, R117, R118 and R120). -/

namespace Sys2Proof

variable {c : Config} {w : Width}

/-- Some row of rule R84 applies; a row that is tried later also asks that the ones before it do not apply. -/
theorem clsRows_exhaustive (c : Config) (w : Width) :
    (c.oneLo < w.toNat ∧ w.toNat < c.oneHi) ∨
      (¬(c.oneLo < w.toNat ∧ w.toNat < c.oneHi) ∧ (c.zeroLo < w.toNat ∧ w.toNat < c.zeroHi)) ∨
      (¬(c.oneLo < w.toNat ∧ w.toNat < c.oneHi) ∧ ¬(c.zeroLo < w.toNat ∧ w.toNat < c.zeroHi)) :=
  (em _).imp id fun hOne => (em _).imp (⟨hOne, ·⟩) (⟨hOne, ·⟩)

theorem selectCls_inOneBand (h : c.oneLo < w.toNat ∧ w.toNat < c.oneHi) : selectCls c w = .clsOne w :=
  if_pos h

theorem selectCls_inZeroBand (hOne : ¬(c.oneLo < w.toNat ∧ w.toNat < c.oneHi))
    (hZero : c.zeroLo < w.toNat ∧ w.toNat < c.zeroHi) : selectCls c w = .clsZero w :=
  (if_neg hOne).trans (if_pos hZero)

theorem selectCls_outsideBands (hOne : ¬(c.oneLo < w.toNat ∧ w.toNat < c.oneHi))
    (hZero : ¬(c.zeroLo < w.toNat ∧ w.toNat < c.zeroHi)) : selectCls c w = .clsUnc w :=
  (if_neg hOne).trans (if_neg hZero)

theorem selectCls_eq_one_iff : selectCls c w = .clsOne w ↔ c.oneLo < w.toNat ∧ w.toNat < c.oneHi := by
  obtain hOne | ⟨hOne, hZero⟩ | ⟨hOne, hZero⟩ := clsRows_exhaustive c w
  · simp [selectCls_inOneBand hOne, hOne]
  · simp [selectCls_inZeroBand hOne hZero, hOne]
  · simp [selectCls_outsideBands hOne hZero, hOne]

theorem selectCls_eq_zero_iff :
    selectCls c w = .clsZero w ↔
      ¬(c.oneLo < w.toNat ∧ w.toNat < c.oneHi) ∧ (c.zeroLo < w.toNat ∧ w.toNat < c.zeroHi) := by
  obtain hOne | ⟨hOne, hZero⟩ | ⟨hOne, hZero⟩ := clsRows_exhaustive c w
  · simp [selectCls_inOneBand hOne, hOne]
  · simp [selectCls_inZeroBand hOne hZero, hOne, hZero]
  · simp [selectCls_outsideBands hOne hZero, hZero]

theorem selectCls_eq_unc_iff :
    selectCls c w = .clsUnc w ↔
      ¬(c.oneLo < w.toNat ∧ w.toNat < c.oneHi) ∧ ¬(c.zeroLo < w.toNat ∧ w.toNat < c.zeroHi) := by
  obtain hOne | ⟨hOne, hZero⟩ | ⟨hOne, hZero⟩ := clsRows_exhaustive c w
  · simp [selectCls_inOneBand hOne, hOne]
  · simp [selectCls_inZeroBand hOne hZero, hZero]
  · simp [selectCls_outsideBands hOne hZero, hOne, hZero]

theorem decode_cls_of_notReserved (hPos : 0 < w.toNat) (hLt : w.toNat < c.wmax) :
    decode c (.cls w) = .ok (selectCls c w) :=
  if_pos ⟨hPos, hLt⟩

theorem decode_cls_eq_ok_iff_of_notReserved {i : Instr} (hPos : 0 < w.toNat) (hLt : w.toNat < c.wmax) :
    decode c (.cls w) = .ok i ↔ selectCls c w = i := by
  rw [decode_cls_of_notReserved hPos hLt, Except.ok.injEq]

/-- A WIDTH7 word decodes to an operation when it is not reserved and its row is that operation's (rules R84, R88). -/
theorem decode_cls_eq_ok_iff {i : Instr} :
    decode c (.cls w) = .ok i ↔ (0 < w.toNat ∧ w.toNat < c.wmax) ∧ selectCls c w = i := by
  by_cases h : 0 < w.toNat ∧ w.toNat < c.wmax <;> simp [decode, h]

end Sys2Proof

namespace Sys2Proof.Machine

/-- In a legal configuration the row of CLS.ONE never hides a width of the Zero band (rules R7, R120). -/
theorem selectCls_eq_zero_iff_of_configLegal {c : Config} {w : Width} (h : configLegal c = true) :
    selectCls c w = .clsZero w ↔ c.zeroLo < w.toNat ∧ w.toNat < c.zeroHi :=
  selectCls_eq_zero_iff.trans
    ⟨And.right, fun hZero => ⟨fun hOne => bands_disjoint_of_configLegal h w.toNat ⟨hOne, hZero⟩, hZero⟩⟩

theorem decode_cls_reference_eq_one_iff (w : Width) :
    decode Config.reference (.cls w) = .ok (.clsOne w) ↔ 6 ≤ w.toNat ∧ w.toNat ≤ 14 := by
  rw [decode_cls_eq_ok_iff, selectCls_eq_one_iff, reference_oneBand_iff]
  have hWmax : Config.reference.wmax = 100 := rfl
  omega

theorem decode_cls_reference_eq_zero_iff (w : Width) :
    decode Config.reference (.cls w) = .ok (.clsZero w) ↔ 16 ≤ w.toNat ∧ w.toNat ≤ 24 := by
  rw [decode_cls_eq_ok_iff, selectCls_eq_zero_iff_of_configLegal reference_legal, reference_zeroBand_iff]
  have hWmax : Config.reference.wmax = 100 := rfl
  omega

theorem decode_cls_reference_eq_unc_iff (w : Width) :
    decode Config.reference (.cls w) = .ok (.clsUnc w) ↔
      (1 ≤ w.toNat ∧ w.toNat ≤ 5) ∨ w.toNat = 15 ∨ (25 ≤ w.toNat ∧ w.toNat ≤ 99) := by
  rw [decode_cls_eq_ok_iff, selectCls_eq_unc_iff, reference_oneBand_iff, reference_zeroBand_iff]
  have hWmax : Config.reference.wmax = 100 := rfl
  omega

theorem exec_clsOne (w : Width) (s : State) : exec (.clsOne w) s = .next (symAppend .one s) := rfl

theorem exec_clsZero (w : Width) (s : State) : exec (.clsZero w) s = .next (symAppend .zero s) := rfl

theorem exec_clsUnc (w : Width) (s : State) : exec (.clsUnc w) s = .next (symAppend (.unclassified w) s) := rfl

/-- Settles O6: a width that is not reserved selects by `selectCls`, whose three rows are complementary; that the Zero row
is the whole Zero band, and that no width is in both, is the bands' disjointness. -/
theorem clsSelectionTable : Obligations.ClsSelectionTable := by
  refine ⟨?_, fun w =>
    ⟨decode_cls_reference_eq_one_iff w, decode_cls_reference_eq_zero_iff w, decode_cls_reference_eq_unc_iff w⟩⟩
  intro c w hLegal hPos hLt
  simp only [decode_cls_eq_ok_iff_of_notReserved hPos hLt]
  refine ⟨selectCls_eq_one_iff, selectCls_eq_zero_iff_of_configLegal hLegal, selectCls_eq_unc_iff, ?atLeastOne,
    bands_disjoint_of_configLegal hLegal w.toNat⟩
  rw [selectCls_eq_one_iff, selectCls_eq_zero_iff, selectCls_eq_unc_iff]
  exact clsRows_exhaustive c w

/-- Settles O22: the selection is the first row of rule R84, and 5 and 15 are outside the reference band. -/
theorem clsOneRule : Obligations.ClsOneRule := by
  refine ⟨?selection, decode_cls_reference_eq_one_iff, exec_clsOne, ?ex, ?five, ?fifteen⟩
  case selection =>
    intro c w hPos hLt
    exact (decode_cls_eq_ok_iff_of_notReserved hPos hLt).trans selectCls_eq_one_iff
  case ex =>
    intro s hCfg
    refine ⟨?_, exec_clsOne _ s, by decide⟩
    rw [hCfg]
    exact (decode_cls_reference_eq_one_iff _).2 (by decide)
  case five => rw [Ne, decode_cls_reference_eq_one_iff]; decide
  case fifteen => rw [Ne, decode_cls_reference_eq_one_iff]; decide

/-- Settles O23: the selection is the second row of rule R84, which in a legal configuration is the whole Zero band; 15 and
25 are outside the reference band. -/
theorem clsZeroRule : Obligations.ClsZeroRule := by
  refine ⟨?selection, decode_cls_reference_eq_zero_iff, exec_clsZero, ?ex, ?fifteen, ?twentyFive⟩
  case selection =>
    intro c w hLegal hPos hLt
    exact (decode_cls_eq_ok_iff_of_notReserved hPos hLt).trans (selectCls_eq_zero_iff_of_configLegal hLegal)
  case ex =>
    intro s hCfg
    refine ⟨?_, exec_clsZero _ s, by decide⟩
    rw [hCfg]
    exact (decode_cls_reference_eq_zero_iff _).2 (by decide)
  case fifteen => rw [Ne, decode_cls_reference_eq_zero_iff]; decide
  case twentyFive => rw [Ne, decode_cls_reference_eq_zero_iff]; decide

/-- Settles O24: the selection is the last row of rule R84, and each of the three example widths lies in one of the
reference's sub-ranges. -/
theorem clsUncRule : Obligations.ClsUncRule := by
  refine ⟨?selection, decode_cls_reference_eq_unc_iff, exec_clsUnc, ?ex, by decide, by decide, by decide⟩
  case selection =>
    intro c w hPos hLt
    exact (decode_cls_eq_ok_iff_of_notReserved hPos hLt).trans selectCls_eq_unc_iff
  case ex =>
    intro s hCfg w hw
    have hRanges : ∀ w ∈ [30#7, 15#7, 3#7],
        (1 ≤ w.toNat ∧ w.toNat ≤ 5) ∨ w.toNat = 15 ∨ (25 ≤ w.toNat ∧ w.toNat ≤ 99) := by decide
    refine ⟨?_, exec_clsUnc w s⟩
    rw [hCfg]
    exact (decode_cls_reference_eq_unc_iff w).2 (hRanges w hw)

end Sys2Proof.Machine
end

section
/-! PROOFS. SCN's window test (rules R126, R127, R129): at an untested position a step is decided by the window's kinds
alone, which equal the pattern's exactly when every place holds the pattern's symbol. -/

namespace Sys2Proof

/-- The only symbol that equals a pattern element (rule R13). -/
def PatBit.symbol : PatBit → Symbol
  | .zero => .zero
  | .one => .one

/-- The kind decides the comparison with a pattern element: no `Unclassified` symbol equals one, whatever its width. -/
theorem Symbol.kind_eq_iff (y : Symbol) (b : PatBit) : y.kind = b.kind ↔ y = b.symbol := by
  cases y <;> cases b <;> simp [Symbol.kind, PatBit.kind, PatBit.symbol]

/-- The word of an untested position selects by rule R126. -/
theorem decode_testWord (c : Config) (synced : Bool) (ys : List Symbol) :
    decode c (.seq (seqWord false synced) (ys.map fun y => y.word.bits)) =
      .ok (selectTest c synced (ys.map Symbol.word)) := by
  simp [decode, Machine.decodeWindow_words]

/-- The stored widths play no part in the selection of rule R126. -/
theorem selectTest_words (c : Config) (synced : Bool) (ys : List Symbol) :
    selectTest c synced (ys.map Symbol.word) =
      if ys.map Symbol.kind = c.pat.map PatBit.kind then .scnTestMatch synced (ys.map Symbol.word)
      else .scnTestMiss synced (ys.map Symbol.word) := by
  simp [selectTest, Function.comp_def]

end Sys2Proof

namespace Sys2Proof.Machine

theorem exec_scnTestMatch (synced : Bool) (ws : List Symbol9) (s : State) :
    exec (.scnTestMatch synced ws) s = .next (enterSync s) := rfl

theorem exec_scnTestMiss (synced : Bool) (ws : List Symbol9) (s : State) :
    exec (.scnTestMiss synced ws) s = .next { s with wt := true } := rfl

/-- SCN.TEST is enabled at every untested position, in both modes (rule R166). -/
theorem scanWord_of_untested {s : State} (hTest : s.wt = false) :
    scanWord s = some (.seq (seqWord false s.synced) ((window s).map fun y => y.word.bits)) := by
  simp [scanWord, testEnabled, hTest]

section UntestedPosition
variable {s : State} (hLegal : configLegal s.cfg = true) (hWidths : s.widths = []) (hTest : s.wt = false)
include hLegal hWidths hTest

/-- At an untested position with no waiting width a step is the window test. -/
theorem step_of_untested : step s = exec (selectTest s.cfg s.synced ((window s).map Symbol.word)) s := by
  simp only [step, if_pos hLegal, nextWord_scan hWidths (scanWord_of_untested hTest), decode_testWord]

theorem step_of_windowMatch (hMatch : (window s).map Symbol.kind = s.cfg.pat.map PatBit.kind) :
    step s = .next (enterSync s) := by
  rw [step_of_untested hLegal hWidths hTest, selectTest_words, if_pos hMatch, exec_scnTestMatch]

theorem step_of_windowMiss (hMiss : (window s).map Symbol.kind ≠ s.cfg.pat.map PatBit.kind) :
    step s = .next { s with wt := true } := by
  rw [step_of_untested hLegal hWidths hTest, selectTest_words, if_neg hMiss, exec_scnTestMiss]

end UntestedPosition

/-- The window's place `j` is the symbol at `CUR - L + j` (rule R53). -/
theorem window_getElem? {s : State} {j : Nat} (hCur : s.cfg.len ≤ s.cur) (hj : j < s.cfg.len) :
    (window s)[j]? = s.sym[s.cur - s.cfg.len + j]? := by
  rw [window, if_pos hCur, List.getElem?_take_of_lt hj, List.getElem?_drop]

/-- The window has at most `L` places (rule R53). -/
theorem window_length_le (s : State) : (window s).length ≤ s.cfg.len := by
  unfold window
  split <;> simp

/-- Rule R126: the kinds agree exactly when the window is whole and holds the pattern's symbol at every place. Symbols that do
not exist equal nothing, so `CUR` at most `WP` is not needed. -/
theorem windowKinds_eq_pattern_iff {s : State} (hLen : 1 ≤ s.cfg.len) :
    (window s).map Symbol.kind = s.cfg.pat.map PatBit.kind ↔
      s.cfg.len ≤ s.cur ∧ ∀ (j : Nat) (b : PatBit), s.cfg.pat[j]? = some b →
        s.sym[s.cur - s.cfg.len + j]? = some b.symbol := by
  constructor
  · intro hMatch
    have hCur := len_le_cur_of_match hLen hMatch
    refine ⟨hCur, fun j b hb => ?_⟩
    obtain ⟨hj, -⟩ := List.getElem?_eq_some_iff.1 hb
    have hPlace : ((window s)[j]?).map Symbol.kind = some b.kind := by
      rw [← List.getElem?_map, hMatch, List.getElem?_map, hb, Option.map_some]
    obtain ⟨y, hy, hKind⟩ := Option.map_eq_some_iff.1 hPlace
    rw [← window_getElem? hCur hj, hy, (y.kind_eq_iff b).1 hKind]
  · rintro ⟨hCur, hPlaces⟩
    refine List.ext_getElem? fun j => ?_
    rw [List.getElem?_map, List.getElem?_map]
    rcases lt_or_ge j s.cfg.len with hj | hj
    · have hb := List.getElem?_eq_getElem hj
      rw [window_getElem? hCur hj, hPlaces j _ hb, hb]
      exact congrArg some ((Symbol.kind_eq_iff _ _).2 rfl)
    · rw [List.getElem?_eq_none hj, List.getElem?_eq_none ((window_length_le s).trans hj)]
      rfl

/-- Settles O26: the step at an untested position is decided by the window's kinds, and `windowKinds_eq_pattern_iff` turns
their equality into the comparison place by place. -/
theorem windowTestIsExactEquality : Obligations.WindowTestIsExactEquality := by
  intro s hLegal hWidths hTest _ matched
  obtain ⟨-, -, -, -, -, -, hLen, -⟩ := (configLegal_iff s.cfg).1 hLegal
  have hMatched : matched ↔ (window s).map Symbol.kind = s.cfg.pat.map PatBit.kind :=
    (windowKinds_eq_pattern_iff hLen).symm
  exact ⟨fun h => step_of_windowMatch hLegal hWidths hTest (hMatched.1 h),
    fun h => step_of_windowMiss hLegal hWidths hTest (mt hMatched.2 h)⟩

/-- Settles O27: the effect is `enterSync`, and the example's window is all of `SYM`, whose kinds are the reference
pattern's. -/
theorem scnTestMatchRule : Obligations.ScnTestMatchRule := by
  refine ⟨exec_scnTestMatch, fun s hCfg hWidths hSym hCur hTest _ hOut => ?_⟩
  have hLegal : configLegal s.cfg = true := hCfg ▸ reference_legal
  have hMatch : (window s).map Symbol.kind = s.cfg.pat.map PatBit.kind := by
    rw [window, hCfg, hSym, hCur]
    decide
  refine ⟨enterSync s, step_of_windowMatch hLegal hWidths hTest hMatch, ?_⟩
  simp [hOut, hCur]

/-- Settles O28: the effect is `WT` alone, and the example's window is all of `SYM`, whose kinds are not the reference
pattern's (its last symbol is `One`, the pattern's last element `Zero`). -/
theorem scnTestMissRule : Obligations.ScnTestMissRule := by
  refine ⟨exec_scnTestMiss, fun s hCfg hWidths hSym hCur hTest => ?_⟩
  have hLegal : configLegal s.cfg = true := hCfg ▸ reference_legal
  have hMiss : (window s).map Symbol.kind ≠ s.cfg.pat.map PatBit.kind := by
    rw [window, hCfg, hSym, hCur]
    decide
  exact step_of_windowMiss hLegal hWidths hTest hMiss

end Sys2Proof.Machine
end

section
/-! PROOFS. FD's two bits (rules R143, R144): the pair's kinds select the bit, and its effect is one shift and a move of
`CUR` by 2. -/

namespace Sys2Proof.Machine

/-- Two `Zero` kinds, and no other pair, select FD.BIT0 (rule R142); the width fields are its operands. -/
theorem decode_pairWord_eq_bit0_iff (c : Config) (a b : Symbol9) :
    (∃ xa xb, decode c (.pair (pairWord a b)) = .ok (.fdBit0 xa xb)) ↔ a.kind = .zero ∧ b.kind = .zero := by
  rw [decode_pairWord]
  obtain ⟨ha, hb, hSel⟩ | ⟨ha, hb, hSel⟩ | ⟨hNotZero, -, hSel⟩ := selectPair_cases a b
  · simp [hSel, ha, hb]
  · simp [hSel, ha]
  · simp [hSel, hNotZero]

/-- Two `One` kinds, and no other pair, select FD.BIT1 (rule R142); the width fields are its operands. -/
theorem decode_pairWord_eq_bit1_iff (c : Config) (a b : Symbol9) :
    (∃ xa xb, decode c (.pair (pairWord a b)) = .ok (.fdBit1 xa xb)) ↔ a.kind = .one ∧ b.kind = .one := by
  rw [decode_pairWord]
  obtain ⟨ha, hb, hSel⟩ | ⟨ha, hb, hSel⟩ | ⟨-, hNotOne, hSel⟩ := selectPair_cases a b
  · simp [hSel, ha]
  · simp [hSel, ha, hb]
  · simp [hSel, hNotOne]

theorem shiftIn_false (acc : BitVec 8) : shiftIn acc false = acc >>> 1 := by simp [shiftIn]

theorem shiftIn_true (acc : BitVec 8) : shiftIn acc true = (acc >>> 1) ||| 0x80#8 := rfl

/-- Clocking a bit before the eighth (rule R141). -/
theorem advance_shift_of_lt (n : Nat) (b : Bool) {s : State} (h : s.nbits.toNat < 7) :
    advance n (shift b s) = { s with
      acc := shiftIn s.acc b, nbits := s.nbits + 1, cur := s.cur + n, wt := false } := by
  rw [shift_of_lt b s h, advance]

/-- Clocking the eighth bit commits the byte (rule R145). -/
theorem advance_shift_of_eq (n : Nat) (b : Bool) {s : State} (h : s.nbits.toNat = 7) :
    advance n (shift b s) = { s with
      blk := s.blk ++ [shiftIn s.acc b], acc := 0, nbits := 0, cur := s.cur + n, wt := false } := by
  rw [shift_of_eq b s h, advance]

theorem exec_fdBit0 (xa xb : BitVec 7) (s : State) :
    exec (.fdBit0 xa xb) s = .next (advance 2 (shift false s)) := rfl

theorem exec_fdBit1 (xa xb : BitVec 7) (s : State) :
    exec (.fdBit1 xa xb) s = .next (advance 2 (shift true s)) := rfl

theorem exec_fdBit0_of_lt (xa xb : BitVec 7) {s : State} (h : s.nbits.toNat < 7) :
    exec (.fdBit0 xa xb) s = .next { s with
      acc := s.acc >>> 1, nbits := s.nbits + 1, cur := s.cur + 2, wt := false } := by
  rw [exec_fdBit0, advance_shift_of_lt 2 false h, shiftIn_false]

theorem exec_fdBit0_of_eq (xa xb : BitVec 7) {s : State} (h : s.nbits.toNat = 7) :
    exec (.fdBit0 xa xb) s = .next { s with
      blk := s.blk ++ [s.acc >>> 1], acc := 0, nbits := 0, cur := s.cur + 2, wt := false } := by
  rw [exec_fdBit0, advance_shift_of_eq 2 false h, shiftIn_false]

theorem exec_fdBit1_of_lt (xa xb : BitVec 7) {s : State} (h : s.nbits.toNat < 7) :
    exec (.fdBit1 xa xb) s = .next { s with
      acc := (s.acc >>> 1) ||| 0x80#8, nbits := s.nbits + 1, cur := s.cur + 2, wt := false } := by
  rw [exec_fdBit1, advance_shift_of_lt 2 true h, shiftIn_true]

theorem exec_fdBit1_of_eq (xa xb : BitVec 7) {s : State} (h : s.nbits.toNat = 7) :
    exec (.fdBit1 xa xb) s = .next { s with
      blk := s.blk ++ [(s.acc >>> 1) ||| 0x80#8], acc := 0, nbits := 0, cur := s.cur + 2, wt := false } := by
  rw [exec_fdBit1, advance_shift_of_eq 2 true h, shiftIn_true]

/-- Settles O32: the pair's kinds select FD.BIT0 and its effect is a shift of 0; the example is a bit before the eighth. -/
theorem fdBit0Rule : Obligations.FdBit0Rule := by
  refine ⟨decode_pairWord_eq_bit0_iff, fun xa xb _ => exec_fdBit0_of_lt xa xb,
    fun xa xb _ => exec_fdBit0_of_eq xa xb, fun xa xb s hAcc hNbits hCur => ?ex⟩
  case ex =>
    have hBefore : s.nbits.toNat < 7 := by rw [hNbits]; decide
    rw [exec_fdBit0_of_lt xa xb hBefore, hAcc, hNbits, hCur]
    rfl

/-- Settles O33: the pair's kinds select FD.BIT1 and its effect is a shift of 1; the first example is a bit before the
eighth, the second is the eighth. -/
theorem fdBit1Rule : Obligations.FdBit1Rule := by
  refine ⟨decode_pairWord_eq_bit1_iff, fun xa xb _ => exec_fdBit1_of_lt xa xb,
    fun xa xb _ => exec_fdBit1_of_eq xa xb, fun xa xb s hAcc hNbits hCur => ?before,
    fun xa xb s hAcc hNbits hBlk => ?eighth⟩
  case before =>
    have hBefore : s.nbits.toNat < 7 := by rw [hNbits]; decide
    rw [exec_fdBit1_of_lt xa xb hBefore, hAcc, hNbits, hCur]
    rfl
  case eighth =>
    have hEighth : s.nbits.toNat = 7 := by rw [hNbits]; decide
    rw [exec_fdBit1_of_eq xa xb hEighth, hAcc, hBlk]
    rfl

end Sys2Proof.Machine
end

section
/-! PROOFS. Encoding and decoding are inverse (spec/30_encoding.md sections 1 and 3): every word is its fields put together
again, every selected operation is well-formed and encodes to the word it was selected from, and every well-formed operation
is the one its word selects. -/

namespace Sys2Proof

/-! ### A word is its fields put together -/

theorem kindOfBits_eq_some_iff {b : BitVec 2} {k : SymKind} : kindOfBits b = some k ↔ k.bits = b :=
  ⟨bits_of_kindOfBits b k, by rintro rfl; exact kindOfBits_bits k⟩

/-- `0b11` is the only pair of bits that stands for no kind (rule R79). -/
theorem kindOfBits_eq_none_iff : ∀ b : BitVec 2, kindOfBits b = none ↔ b = 0b11#2 := by decide

/-- A SYMBOL9 word decodes to the symbol whose word it is, and to no other. -/
theorem decodeSymbol9_eq_ok_iff {x : BitVec 9} {a : Symbol9} : decodeSymbol9 x = .ok a ↔ a.bits = x := by
  constructor
  · intro h
    unfold decodeSymbol9 at h
    split at h
    · next k hk =>
      cases h
      rw [Symbol9.bits, kindOfBits_eq_some_iff.1 hk]
      exact BitVec.extractLsb'_append_extractLsb'
    · cases h
  · rintro rfl
    exact decodeSymbol9_bits a

theorem decodeWindow_eq_ok_iff {xs : List (BitVec 9)} {ws : List Symbol9} :
    decodeWindow xs = .ok ws ↔ ws.map Symbol9.bits = xs := by
  constructor
  · intro h
    induction xs generalizing ws with
    | nil => cases h; rfl
    | cons x xs ih =>
      unfold decodeWindow at h
      split at h
      · cases h
      · next a ha =>
        split at h
        · cases h
        · next as has =>
          cases h
          rw [List.map_cons, decodeSymbol9_eq_ok_iff.1 ha, ih has]
  · rintro rfl
    exact decodeWindow_bits ws

theorem zcdWord_fields (x : BitVec 17) : zcdWord (x.getLsbD 16) (x.extractLsb' 0 16) = x := by
  refine BitVec.eq_of_getLsbD_eq fun i hi => ?_
  rw [zcdWord, BitVec.getLsbD_append]
  by_cases h : i < 16
  · simp [h]
  · obtain rfl : i = 16 := by omega
    simp

theorem seqWord_fields (x : BitVec 2) : seqWord (x.getLsbD 1) (x.getLsbD 0) = x := by
  revert x
  decide

theorem pairWord_of_halves {x : BitVec 18} {a b : Symbol9} (ha : a.bits = x.extractLsb' 9 9)
    (hb : b.bits = x.extractLsb' 0 9) : pairWord a b = x := by
  rw [pairWord, ha, hb]
  exact BitVec.extractLsb'_append_extractLsb'

/-! ### The word of an operation, from the same fields -/

variable (c : Config) (v : Sample) (w : Width) (high synced : Bool) (ws : List Symbol9) (xa xb : BitVec 7)
  (a b : Symbol9)

theorem encode_zcdRise : encode (.zcdRise v) = .zcd (zcdWord false v) := rfl

theorem encode_zcdFall : encode (.zcdFall v) = .zcd (zcdWord true v) := rfl

theorem encode_zcdHold : encode (.zcdHold high v) = .zcd (zcdWord high v) := rfl

theorem encode_scnTestMatch :
    encode (.scnTestMatch synced ws) = .seq (seqWord false synced) (ws.map Symbol9.bits) := rfl

theorem encode_scnTestMiss :
    encode (.scnTestMiss synced ws) = .seq (seqWord false synced) (ws.map Symbol9.bits) := rfl

theorem encode_fdBit0 : encode (.fdBit0 xa xb) = .pair (pairWord ⟨.zero, xa⟩ ⟨.zero, xb⟩) := rfl

theorem encode_fdBit1 : encode (.fdBit1 xa xb) = .pair (pairWord ⟨.one, xa⟩ ⟨.one, xb⟩) := rfl

theorem encode_fdLos : encode (.fdLos a b) = .pair (pairWord a b) := rfl

/-! ### Well-formedness, spelled out where it is a conjunction -/

theorem wf_clsOne_iff :
    (Instr.clsOne w).wf c = true ↔ (0 < w.toNat ∧ w.toNat < c.wmax) ∧ c.oneLo < w.toNat ∧ w.toNat < c.oneHi := by
  simp [Instr.wf, widthLegal, inOneBand]

theorem wf_clsZero_iff :
    (Instr.clsZero w).wf c = true ↔ (0 < w.toNat ∧ w.toNat < c.wmax) ∧
      ¬(c.oneLo < w.toNat ∧ w.toNat < c.oneHi) ∧ (c.zeroLo < w.toNat ∧ w.toNat < c.zeroHi) := by
  simp only [Instr.wf, widthLegal, inOneBand, inZeroBand, Bool.and_eq_true, Bool.not_eq_true', Bool.and_eq_false_iff,
    decide_eq_true_eq, decide_eq_false_iff_not]
  omega

theorem wf_clsUnc_iff :
    (Instr.clsUnc w).wf c = true ↔ (0 < w.toNat ∧ w.toNat < c.wmax) ∧
      ¬(c.oneLo < w.toNat ∧ w.toNat < c.oneHi) ∧ ¬(c.zeroLo < w.toNat ∧ w.toNat < c.zeroHi) := by
  simp only [Instr.wf, widthLegal, inOneBand, inZeroBand, Bool.and_eq_true, Bool.not_eq_true', Bool.and_eq_false_iff,
    decide_eq_true_eq, decide_eq_false_iff_not]
  omega

theorem pairAccepted_iff (j k : SymKind) :
    pairAccepted j k = true ↔ (j = .zero ∧ k = .zero) ∨ (j = .one ∧ k = .one) := by
  cases j <;> cases k <;> decide

theorem wf_fdLos_iff :
    (Instr.fdLos a b).wf c = true ↔
      ¬(a.kind = .zero ∧ b.kind = .zero) ∧ ¬(a.kind = .one ∧ b.kind = .one) := by
  rw [Instr.wf, Bool.not_eq_true', ← Bool.not_eq_true, pairAccepted_iff, not_or]

/-! ### What is selected from a word -/

theorem decode_testWindow :
    decode c (.seq (seqWord false synced) (ws.map Symbol9.bits)) = .ok (selectTest c synced ws) := by
  simp [decode]

theorem selectZcd_encode_wf :
    encode (selectZcd c high v) = .zcd (zcdWord high v) ∧ (selectZcd c high v).wf c = true := by
  obtain ⟨rfl, h⟩ | ⟨rfl, h⟩ | ⟨rfl, h⟩ | ⟨rfl, h⟩ := zcdRows_exhaustive c high v
  · rw [selectZcd_low_above h, encode_zcdRise]; simp [Instr.wf, h]
  · rw [selectZcd_low_notAbove h, encode_zcdHold]; simp [Instr.wf, h]
  · rw [selectZcd_high_below h, encode_zcdFall]; simp [Instr.wf, h]
  · rw [selectZcd_high_notBelow h, encode_zcdHold]; simp [Instr.wf, h]

variable {c w} in
theorem selectCls_encode_wf (h : 0 < w.toNat ∧ w.toNat < c.wmax) :
    encode (selectCls c w) = .cls w ∧ (selectCls c w).wf c = true := by
  obtain hOne | ⟨hOne, hZero⟩ | ⟨hOne, hZero⟩ := clsRows_exhaustive c w
  · rw [selectCls_inOneBand hOne]; exact ⟨rfl, (wf_clsOne_iff c w).2 ⟨h, hOne⟩⟩
  · rw [selectCls_inZeroBand hOne hZero]; exact ⟨rfl, (wf_clsZero_iff c w).2 ⟨h, hOne, hZero⟩⟩
  · rw [selectCls_outsideBands hOne hZero]; exact ⟨rfl, (wf_clsUnc_iff c w).2 ⟨h, hOne, hZero⟩⟩

theorem selectTest_encode_wf :
    encode (selectTest c synced ws) = .seq (seqWord false synced) (ws.map Symbol9.bits) ∧
      (selectTest c synced ws).wf c = true := by
  unfold selectTest
  split
  · next h => rw [encode_scnTestMatch]; simp [Instr.wf, windowEqualsPattern, h]
  · next h => rw [encode_scnTestMiss]; simp [Instr.wf, windowEqualsPattern, h]

theorem selectPair_encode_wf :
    encode (selectPair a b) = .pair (pairWord a b) ∧ (selectPair a b).wf c = true := by
  obtain ⟨ka, xa⟩ := a
  obtain ⟨kb, xb⟩ := b
  obtain ⟨rfl, rfl, hSel⟩ | ⟨rfl, rfl, hSel⟩ | ⟨hNotZero, hNotOne, hSel⟩ :=
    Machine.selectPair_cases ⟨ka, xa⟩ ⟨kb, xb⟩
  · rw [hSel, encode_fdBit0]; exact ⟨rfl, rfl⟩
  · rw [hSel, encode_fdBit1]; exact ⟨rfl, rfl⟩
  · rw [hSel, encode_fdLos]; exact ⟨rfl, (wf_fdLos_iff c _ _).2 ⟨hNotZero, hNotOne⟩⟩

variable {a b} in
theorem selectPair_of_not_accepted (hNotZero : ¬(a.kind = .zero ∧ b.kind = .zero))
    (hNotOne : ¬(a.kind = .one ∧ b.kind = .one)) : selectPair a b = .fdLos a b := by
  obtain ⟨ha, hb, -⟩ | ⟨ha, hb, -⟩ | ⟨-, -, hSel⟩ := Machine.selectPair_cases a b
  · exact absurd ⟨ha, hb⟩ hNotZero
  · exact absurd ⟨ha, hb⟩ hNotOne
  · exact hSel

/-! ### The two directions -/

/-- Settles O10: the word of a well-formed operation is put together from the fields that the selection reads, and the
operation meets the condition of its own row there. -/
theorem decodeOfEncodeIsTheOperation : Obligations.DecodeOfEncodeIsTheOperation := by
  intro c i hWf
  cases i with
  | zcdRise v =>
    rw [encode_zcdRise, decode_zcdWord_eq_rise_iff]
    exact ⟨rfl, of_decide_eq_true hWf⟩
  | zcdFall v =>
    rw [encode_zcdFall, decode_zcdWord_eq_fall_iff]
    exact ⟨rfl, of_decide_eq_true hWf⟩
  | zcdHold high v =>
    rw [encode_zcdHold, decode_zcdWord_eq_hold_iff]
    cases high with
    | false => exact .inl ⟨rfl, of_decide_eq_true hWf⟩
    | true => exact .inr ⟨rfl, of_decide_eq_true hWf⟩
  | clsOne w =>
    rw [encode, decode_cls_eq_ok_iff, selectCls_eq_one_iff]
    exact (wf_clsOne_iff c w).1 hWf
  | clsZero w =>
    rw [encode, decode_cls_eq_ok_iff, selectCls_eq_zero_iff]
    exact (wf_clsZero_iff c w).1 hWf
  | clsUnc w =>
    rw [encode, decode_cls_eq_ok_iff, selectCls_eq_unc_iff]
    exact (wf_clsUnc_iff c w).1 hWf
  | scnTestMatch synced ws =>
    rw [encode_scnTestMatch, decode_testWindow, selectTest, if_pos (of_decide_eq_true hWf)]
  | scnTestMiss synced ws =>
    have hMiss : ws.map Symbol9.kind ≠ c.pat.map PatBit.kind := by
      simpa [Instr.wf, windowEqualsPattern] using hWf
    rw [encode_scnTestMiss, decode_testWindow, selectTest, if_neg hMiss]
  | scnAdv => rfl
  | fdBit0 xa xb => rw [encode_fdBit0, Machine.decode_pairWord]; rfl
  | fdBit1 xa xb => rw [encode_fdBit1, Machine.decode_pairWord]; rfl
  | fdLos a b =>
    obtain ⟨hNotZero, hNotOne⟩ := (wf_fdLos_iff c a b).1 hWf
    rw [encode_fdLos, Machine.decode_pairWord, selectPair_of_not_accepted hNotZero hNotOne]

/-- Settles O11: the word is its fields put together again, and the operation is the one selected from those fields, which
is well-formed and encodes to that word. -/
theorem encodeOfDecodeIsTheWord : Obligations.EncodeOfDecodeIsTheWord := by
  intro c x i hDecode
  cases x with
  | zcd x =>
    rw [← zcdWord_fields x, decode_zcdWord_eq_ok_iff] at hDecode
    rw [← zcdWord_fields x, ← hDecode]
    exact selectZcd_encode_wf c _ _
  | cls w =>
    obtain ⟨hLegal, rfl⟩ := decode_cls_eq_ok_iff.1 hDecode
    exact selectCls_encode_wf hLegal
  | seq x xs =>
    simp only [decode] at hDecode
    split at hDecode
    · cases hDecode
    · next ws hWindow =>
      obtain rfl := decodeWindow_eq_ok_iff.1 hWindow
      rw [← seqWord_fields x]
      split at hDecode
      · next hWt =>
        cases hDecode
        rw [hWt]
        exact selectTest_encode_wf c _ ws
      · next hWt hSynced =>
        rw [hWt, hSynced]
        split at hDecode
        · next hEmpty => cases hDecode; subst hEmpty; exact ⟨rfl, rfl⟩
        · cases hDecode
      · cases hDecode
  | pair x =>
    simp only [decode] at hDecode
    split at hDecode
    · cases hDecode
    · next a ha =>
      split at hDecode
      · cases hDecode
      · next b hb =>
        cases hDecode
        rw [← pairWord_of_halves (decodeSymbol9_eq_ok_iff.1 ha) (decodeSymbol9_eq_ok_iff.1 hb)]
        exact selectPair_encode_wf c a b

end Sys2Proof
end

section
/-! PROOFS. Selection from words given as bits (spec/30_encoding.md sections 3 and 5): pair words by their two kinds,
reserved words, and words written out. -/

namespace Sys2Proof

/-- A SYMBOL9 word of the reserved kind is rejected (rule R88). -/
theorem decodeSymbol9_reserved {x : BitVec 9} (h : x.extractLsb' 7 2 = 0b11#2) :
    decodeSymbol9 x = .error (.reservedKind x) := by
  rw [decodeSymbol9, (kindOfBits_eq_none_iff _).2 h]

/-- Any other SYMBOL9 word decodes, its width not examined (rules R79, R86). -/
theorem exists_decodeSymbol9 {x : BitVec 9} (h : x.extractLsb' 7 2 ≠ 0b11#2) :
    ∃ k : SymKind, k.bits = x.extractLsb' 7 2 ∧ decodeSymbol9 x = .ok ⟨k, x.extractLsb' 0 7⟩ := by
  obtain ⟨k, hk⟩ := Option.ne_none_iff_exists'.1 (mt (kindOfBits_eq_none_iff _).1 h)
  exact ⟨k, kindOfBits_eq_some_iff.1 hk, by rw [decodeSymbol9, hk]⟩

/-- The fields of a pair word's first half stand nine bits higher in the word (rule R86). -/
theorem extractLsb'_firstHalf (x : BitVec 18) {start len : Nat} (h : start + len ≤ 9) :
    (x.extractLsb' 9 9).extractLsb' start len = x.extractLsb' (9 + start) len := by
  refine BitVec.eq_of_getLsbD_eq fun i hi => ?_
  simp [hi, show start + i < 9 by omega, Nat.add_assoc]

theorem extractLsb'_secondHalf (x : BitVec 18) {start len : Nat} (h : start + len ≤ 9) :
    (x.extractLsb' 0 9).extractLsb' start len = x.extractLsb' start len := by
  refine BitVec.eq_of_getLsbD_eq fun i hi => ?_
  simp [hi, show start + i < 9 by omega]

/-- A pair word without the reserved kind selects by the two kinds that its bits stand for (rules R86, R142). -/
theorem exists_decode_pair (c : Config) {x : BitVec 18} (hA : x.extractLsb' 16 2 ≠ 0b11#2)
    (hB : x.extractLsb' 7 2 ≠ 0b11#2) :
    ∃ ka kb : SymKind, ka.bits = x.extractLsb' 16 2 ∧ kb.bits = x.extractLsb' 7 2 ∧
      decode c (.pair x) = .ok (selectPair ⟨ka, x.extractLsb' 9 7⟩ ⟨kb, x.extractLsb' 0 7⟩) := by
  rw [← extractLsb'_firstHalf x (by decide : 7 + 2 ≤ 9)] at hA
  rw [← extractLsb'_secondHalf x (by decide : 7 + 2 ≤ 9)] at hB
  obtain ⟨ka, hka, hDecodeA⟩ := exists_decodeSymbol9 hA
  obtain ⟨kb, hkb, hDecodeB⟩ := exists_decodeSymbol9 hB
  refine ⟨ka, kb, ?_, ?_, ?_⟩
  · rw [hka, extractLsb'_firstHalf x (by decide)]
  · rw [hkb, extractLsb'_secondHalf x (by decide)]
  · simp only [decode, hDecodeA, hDecodeB, extractLsb'_firstHalf x (by decide : 0 + 7 ≤ 9),
      extractLsb'_secondHalf x (by decide : 0 + 7 ≤ 9)]

theorem SymKind.bits_injective : Function.Injective SymKind.bits := by
  intro j k h
  simpa using congrArg kindOfBits h

/-- Settles O8: the two kinds of the word choose the row of `selectPair`, whose operands are the two symbol words with
their width bits as they stand. -/
theorem pairWordSelection : Obligations.PairWordSelection := by
  intro c x a b
  refine ⟨?bothZero, ?bothOne, ?other, by decide, by decide⟩
  case bothZero =>
    intro hA hB
    obtain ⟨ka, kb, hka, hkb, hDecode⟩ := exists_decode_pair c (x := x) (hA.trans_ne (by decide)) (hB.trans_ne (by decide))
    obtain rfl : ka = .zero := SymKind.bits_injective (hka.trans hA)
    obtain rfl : kb = .zero := SymKind.bits_injective (hkb.trans hB)
    exact hDecode
  case bothOne =>
    intro hA hB
    obtain ⟨ka, kb, hka, hkb, hDecode⟩ := exists_decode_pair c (x := x) (hA.trans_ne (by decide)) (hB.trans_ne (by decide))
    obtain rfl : ka = .one := SymKind.bits_injective (hka.trans hA)
    obtain rfl : kb = .one := SymKind.bits_injective (hkb.trans hB)
    exact hDecode
  case other =>
    intro hA hB hNotZero hNotOne
    obtain ⟨ka, kb, hka, hkb, hDecode⟩ := exists_decode_pair c hA hB
    refine ⟨⟨ka, x.extractLsb' 9 7⟩, ⟨kb, x.extractLsb' 0 7⟩, ?_, hka, hkb, rfl, rfl⟩
    rw [hDecode, selectPair_of_not_accepted]
    · rintro ⟨rfl, rfl⟩
      exact hNotZero ⟨hka.symm, hkb.symm⟩
    · rintro ⟨rfl, rfl⟩
      exact hNotOne ⟨hka.symm, hkb.symm⟩

theorem decode_cls_eq_reserved_iff (c : Config) (w : Width) :
    decode c (.cls w) = .error (.reservedWidth w) ↔ w.toNat = 0 ∨ c.wmax ≤ w.toNat := by
  by_cases h : 0 < w.toNat ∧ w.toNat < c.wmax
  · rw [decode_cls_of_notReserved h.1 h.2]
    simp only [reduceCtorEq, false_iff]
    omega
  · simp only [decode, if_neg h, true_iff]
    omega

/-- Settles O7: a width is rejected exactly outside the range that CLS's rows are for, and a reserved kind is rejected in
whichever half it is met first. -/
theorem reservedWordsAreRefused : Obligations.ReservedWordsAreRefused := by
  refine ⟨fun c w => ?width, fun s w ws hLegal hWidths hReserved => ?step, fun c x hReserved => ?kind⟩
  case width => exact decode_cls_eq_reserved_iff c w
  case step =>
    have hDecode := (decode_cls_eq_reserved_iff s.cfg w).2 hReserved
    simp only [Machine.step, if_pos hLegal, Machine.nextWord_width hWidths, hDecode]
  case kind =>
    rw [← extractLsb'_firstHalf x (by decide : 7 + 2 ≤ 9), ← extractLsb'_secondHalf x (by decide : 7 + 2 ≤ 9)]
      at hReserved
    by_cases hFirst : (x.extractLsb' 9 9).extractLsb' 7 2 = 0b11#2
    · exact ⟨_, by simp only [decode, decodeSymbol9_reserved hFirst], hFirst⟩
    · obtain ⟨k, -, hDecode⟩ := exists_decodeSymbol9 hFirst
      have hSecond := hReserved.resolve_left hFirst
      exact ⟨_, by simp only [decode, hDecode, decodeSymbol9_reserved hSecond], hSecond⟩

/-- Settles O9: the decoder is evaluated on each word. -/
theorem writtenOutWordsDecode : Obligations.WrittenOutWordsDecode := by
  unfold Obligations.WrittenOutWordsDecode
  decide

end Sys2Proof
end

section
/-! PROOFS. Reset, the configuration, and the step forwards: `StepCase` is not only what a step can do but exactly what it
does, so a step is computed by naming its case (spec/45_pipeline.md rules R165 to R167). -/

namespace Sys2Proof.Machine

/-! ### Reset and the configuration -/

/-- Settles O1: every field of the reset state is written out in its definition. -/
theorem resetPutsEveryStateAtItsValue : Obligations.ResetPutsEveryStateAtItsValue := by
  refine ⟨fun s => ⟨rfl, rfl, rfl, rfl, rfl, rfl, rfl, rfl, rfl, rfl, rfl, rfl, rfl, rfl, rfl, rfl⟩, fun s hCfg => ?_⟩
  rw [resetAction, hCfg, State.reset]

theorem resetWith_inv {c : Config} (hLegal : configLegal c = true) : Inv (State.resetWith c) where
  legal := hLegal
  distRange := Nat.zero_le _
  curRange := le_rfl
  symLegal := List.forall_mem_nil _
  oneWidth := Nat.zero_le _
  widthsLegal := List.forall_mem_nil _
  losRange := le_rfl
  losPassed := fun h => absurd h (lt_irrefl 0)
  blkSynced := fun h => absurd rfl h
  ledger := ⟨Ledger.empty, rfl, rfl, rfl, rfl, le_rfl, nofun, nofun⟩

/-- Nothing is claimed of the frame's contents while Unsynced. -/
theorem frameAgrees_of_unsynced {s : State} (h : s.synced = false) : frameAgrees s :=
  fun hSynced => absurd (h.symm.trans hSynced) Bool.false_ne_true

/-- Settles O2: after reset every queue and every record is empty and the mode is Unsynced. -/
theorem resetStateMeetsTheInvariants : Obligations.ResetStateMeetsTheInvariants :=
  ⟨fun _ hLegal => ⟨resetWith_inv hLegal, frameAgrees_of_unsynced rfl⟩, resetWith_inv reference_legal⟩

/-- A legal configuration is never refused as illegal: only a reserved word can refuse the step then. -/
theorem step_eq_illegal_iff {s : State} : step s = .refused .illegalConfiguration ↔ ¬configLegal s.cfg = true := by
  refine ⟨fun hStep hLegal => ?_, step_of_not_configLegal⟩
  rw [step, if_pos hLegal] at hStep
  split at hStep
  · cases hStep
  · split at hStep
    · cases hStep
    · next x s' _ _ i _ =>
      obtain ⟨t, hNext⟩ := exec_next i s'
      cases hNext.symm.trans hStep

theorem bitOrder_eq_msbFirst_iff (o : BitOrder) : o = .msbFirst ↔ ¬o = .lsbFirst := by cases o <;> decide

/-- Settles O4: the step is refused by that name exactly when `configLegal` fails, and the listed conditions are the
negations of its parts. -/
theorem configurationOutsideItsRangesIsRefused : Obligations.ConfigurationOutsideItsRangesIsRefused := by
  intro s c
  rw [step_eq_illegal_iff, configLegal_iff, ← List.length_eq_zero_iff, bitOrder_eq_msbFirst_iff]
  change _ ↔ ¬((0 ≤ c.t ∧ c.t ≤ 32767) ∧ (2 ≤ c.wmax ∧ c.wmax ≤ 127) ∧ c.oneLo < c.oneHi ∧ c.oneHi ≤ c.zeroLo + 1 ∧
    c.zeroLo < c.zeroHi ∧ c.zeroHi ≤ c.wmax ∧ 1 ≤ c.pat.length ∧ c.bitOrder = .lsbFirst)
  by_cases hOrder : c.bitOrder = .lsbFirst
  · simp only [hOrder, not_true_eq_false, or_false, and_true]
    omega
  · simp [hOrder]

/-! ### The step on a word -/

theorem step_of_nextWord {s s' : State} {x : OpWord} {i : Instr} (hLegal : configLegal s.cfg = true)
    (hNext : nextWord s = some (x, s')) (hDecode : decode s.cfg x = .ok i) : step s = exec i s' := by
  simp only [step, if_pos hLegal, hNext, hDecode]

/-- Settles O12: the step is the operation by its definition, and the three sources of a word consume what is said. -/
theorem stepRunsTheDecodedOperation : Obligations.StepRunsTheDecodedOperation := by
  intro s s' x i hLegal hNext hDecode
  refine ⟨step_of_nextWord hLegal hNext hDecode, ?_⟩
  obtain ⟨w, ws, hWidths, -, rfl⟩ | ⟨hWidths, -, rfl⟩ | ⟨hWidths, -, v, vs, hSamples, -, rfl⟩ := nextWord_cases hNext
  · exact .inl ⟨w, hWidths, rfl⟩
  · exact .inr (.inr ⟨hWidths, rfl⟩)
  · exact .inr (.inl ⟨hWidths, v, hSamples, rfl⟩)

/-! ### The scan unit's conditions and words -/

theorem testEnabled_iff (s : State) : testEnabled s = true ↔ s.wt = false := by simp [testEnabled]

theorem advEnabled_iff (s : State) : advEnabled s = true ↔ s.wt = true ∧ s.synced = false ∧ s.cur + 1 ≤ s.wp := by
  simp [advEnabled, and_assoc]

theorem pairEnabled_iff (s : State) : pairEnabled s = true ↔ s.wt = true ∧ s.synced = true ∧ s.cur + 2 ≤ s.wp := by
  simp [pairEnabled, and_assoc]

theorem scanWord_of_advEnabled {s : State} (hTest : s.wt = true) (hSynced : s.synced = false) (hCur : s.cur + 1 ≤ s.wp) :
    scanWord s = some (.seq (seqWord true false) []) := by
  rw [scanWord, if_neg (by simp [testEnabled_iff, hTest]), if_pos ((advEnabled_iff s).2 ⟨hTest, hSynced, hCur⟩), hTest,
    hSynced]

theorem scanWord_of_pairEnabled {s : State} (hTest : s.wt = true) (hSynced : s.synced = true) (hCur : s.cur + 2 ≤ s.wp) :
    scanWord s = some (.pair (pairWord (symRead s s.cur).word (symRead s (s.cur + 1)).word)) := by
  rw [scanWord, if_neg (by simp [testEnabled_iff, hTest]), if_neg (by simp [advEnabled_iff, hSynced]),
    if_pos ((pairEnabled_iff s).2 ⟨hTest, hSynced, hCur⟩), pairRead]

/-- Settles O13: the three conditions differ in `WT` or in `SYNCED`, and `CUR` at most `WP` turns the two bounds of
quiescence into the rule's. -/
theorem atMostOneMicroOperationIsEnabled : Obligations.AtMostOneMicroOperationIsEnabled := by
  intro s
  rw [testEnabled_iff, advEnabled_iff, pairEnabled_iff, quiescent_iff]
  refine ⟨.rfl, .rfl, .rfl, ?testAdv, ?testPair, ?advPair, ?noWord, fun hCur => ?quiescence⟩
  case testAdv => exact fun ⟨hTest, hTested, _⟩ => Bool.noConfusion (hTest.symm.trans hTested)
  case testPair => exact fun ⟨hTest, hTested, _⟩ => Bool.noConfusion (hTest.symm.trans hTested)
  case advPair => exact fun ⟨⟨_, hUnsynced, _⟩, _, hSynced, _⟩ => Bool.noConfusion (hUnsynced.symm.trans hSynced)
  case noWord => rw [scanWord_eq_none_iff, quiescent_iff]
  case quiescence =>
    have hAtEnd : s.wp ≤ s.cur ↔ s.wp = s.cur := by omega
    rw [hAtEnd]

/-! ### The step is exactly its case -/

/-- The classifier's three operations append the symbol of the width's band. -/
theorem exec_selectCls (c : Config) (w : Width) (s : State) :
    exec (selectCls c w) s = .next (symAppend (classify c w) s) := by
  obtain hOne | ⟨hOne, hZero⟩ | ⟨hOne, hZero⟩ := clsRows_exhaustive c w
  · rw [selectCls_inOneBand hOne, classify, if_pos hOne, exec_clsOne]
  · rw [selectCls_inZeroBand hOne hZero, classify, if_neg hOne, if_pos hZero, exec_clsZero]
  · rw [selectCls_outsideBands hOne hZero, classify, if_neg hOne, if_neg hZero, exec_clsUnc]

theorem exec_scnAdv (s : State) : exec .scnAdv s = .next (advance 1 s) := rfl

theorem exec_fdLos (a b : Symbol9) (s : State) : exec (.fdLos a b) s = .next (loseSync s) := rfl

/-- The converse of `step_cases`: the conditions of a case are enough for the step to be that case. -/
theorem step_of_case {s t : State} (hLegal : configLegal s.cfg = true) (h : StepCase s t) : step s = .next t := by
  cases h with
  | rest hw hq hv => simp only [step, if_pos hLegal, nextWord_rest hw hq hv]
  | classify w ws y hw h0 h1 hy =>
    rw [step_of_nextWord hLegal (nextWord_width hw) (decode_cls_of_notReserved h0 h1), exec_selectCls, hy, classify]
  | matched hw ht hm => exact step_of_windowMatch hLegal hw ht hm
  | missed hw ht hm => exact step_of_windowMiss hLegal hw ht hm
  | advanced hw ht hs hc =>
    rw [step_of_nextWord hLegal (nextWord_scan hw (scanWord_of_advEnabled ht hs hc)) (i := .scnAdv) rfl, exec_scnAdv]
  | clocked b hw ht hs hc ha hb =>
    rw [step_of_nextWord hLegal (nextWord_scan hw (scanWord_of_pairEnabled ht hs hc)) (decode_pairWord _ _ _), ha, hb]
    cases b with
    | false => exact exec_fdBit0 0 0 s
    | true => exact exec_fdBit1 0 0 s
  | lost hw ht hs hc h0 h1 =>
    rw [step_of_nextWord hLegal (nextWord_scan hw (scanWord_of_pairEnabled ht hs hc)) (decode_pairWord _ _ _),
      selectPair_of_not_accepted, exec_fdLos]
    · exact fun ⟨ha, hb⟩ => h0 ⟨Symbol.eq_zero_of_word ha, Symbol.eq_zero_of_word hb⟩
    · exact fun ⟨ha, hb⟩ => h1 ⟨Symbol.eq_one_of_word ha, Symbol.eq_one_of_word hb⟩
  | transition v vs hw hq hv hx =>
    rw [step_of_nextWord hLegal (nextWord_sample hw hq hv) (decode_zcdWord _ _ _)]
    obtain ⟨hHigh, hAbove⟩ | ⟨hHigh, hBelow⟩ := hx
    · rw [hHigh, selectZcd_low_above hAbove]; rfl
    · rw [hHigh, selectZcd_high_below hBelow]; rfl
  | held v vs hw hq hv hx =>
    rw [step_of_nextWord hLegal (nextWord_sample hw hq hv) (decode_zcdWord _ _ _)]
    obtain h | ⟨hHigh, hLe⟩ | h | ⟨hHigh, hLe⟩ := zcdRows_exhaustive s.cfg s.high v
    · exact absurd (.inl h) hx
    · rw [hHigh, selectZcd_low_notAbove hLe, exec_zcdHold]
    · exact absurd (.inr h) hx
    · rw [hHigh, selectZcd_high_notBelow hLe, exec_zcdHold]

/-! ### Steps of each kind -/

/-- Settles O14: a quiescent block with empty queues has no word, and one symbol past `CUR` while Synced leaves it
quiescent. -/
theorem restAndTheUnpairedSymbolWait : Obligations.RestAndTheUnpairedSymbolWait := by
  intro s hLegal hWidths hSamples
  refine ⟨fun hQuiescent => step_of_case hLegal (.rest hWidths hQuiescent hSamples), fun y hTest hSynced hEnd => ?_⟩
  have hQuiescent : quiescent (symAppend y s) = true :=
    (quiescent_iff _).2 ⟨hTest, .inr ⟨hSynced, by rw [symAppend_wp, hEnd, symAppend_cur]⟩⟩
  exact step_of_case hLegal (.rest hWidths hQuiescent hSamples)

/-- A transition consumes the sample and counts it in the width it records. -/
theorem step_of_transition {s : State} {v : Sample} {vs : List Sample} (hLegal : configLegal s.cfg = true)
    (hWidths : s.widths = []) (hQuiescent : quiescent s = true) (hSamples : s.samples = v :: vs)
    (hCross : (s.high = false ∧ s.cfg.t < v.toInt) ∨ (s.high = true ∧ v.toInt < -s.cfg.t)) :
    step s = .next (afterTransition (!s.high) { s with samples := vs }) :=
  (step_of_case hLegal (.transition v vs hWidths hQuiescent hSamples hCross)).trans
    (congrArg Host.Outcome.next (recordWidth_countSample (s := { s with samples := vs }) (!s.high) hLegal))

/-- Settles O18: the sample is a transition or it is held, and a transition's queue starts from the empty one. -/
theorem stepConsumesOneSample : Obligations.StepConsumesOneSample := by
  intro s v vs hLegal hWidths hQuiescent hSamples w queue
  refine ⟨fun hHigh hAbove => ?rise, fun hHigh hBelow => ?fall, fun hHold => ?hold⟩
  case rise =>
    rw [step_of_transition hLegal hWidths hQuiescent hSamples (.inl ⟨hHigh, hAbove⟩), afterTransition, hHigh, hWidths]
    rfl
  case fall =>
    rw [step_of_transition hLegal hWidths hQuiescent hSamples (.inr ⟨hHigh, hBelow⟩), afterTransition, hHigh, hWidths]
    rfl
  case hold =>
    refine step_of_case hLegal (.held v vs hWidths hQuiescent hSamples ?_)
    rintro (⟨hLow, hAbove⟩ | ⟨hHigh, hBelow⟩)
    · simp only [hLow, true_and, Bool.false_eq_true, false_and, or_false] at hHold
      omega
    · simp only [hHigh, true_and, Bool.true_eq_false, false_and, false_or] at hHold
      omega

/-- Settles O25: the waiting width is classified, and in a legal configuration a width of the Zero band is not in the One
band, which is tried first. -/
theorem stepClassifiesTheWaitingWidth : Obligations.StepClassifiesTheWaitingWidth := by
  intro s w ws hLegal hWidths hPos hLt
  have hStep : step s = .next (symAppend (classify s.cfg w) { s with widths := ws }) :=
    step_of_case hLegal (.classify w ws _ hWidths hPos hLt rfl)
  refine ⟨fun hLo hHi => ?one, fun hLo hHi => ?zero, fun hNotOne hNotZero => ?unclassified⟩
  case one => rw [hStep, classify, if_pos ⟨hLo, hHi⟩, symAppend]
  case zero =>
    have hNotOne := fun hOne => bands_disjoint_of_configLegal hLegal w.toNat ⟨hOne, hLo, hHi⟩
    rw [hStep, classify, if_neg hNotOne, if_pos ⟨hLo, hHi⟩, symAppend]
  case unclassified => rw [hStep, classify, if_neg hNotOne, if_neg hNotZero, symAppend]

/-- Settles O29: SCN.ADV is the step's case `advanced` when a symbol stands at `CUR`, and without one the scan unit is
quiescent. -/
theorem scnAdvRule : Obligations.ScnAdvRule := by
  refine ⟨exec_scnAdv, fun s hLegal hWidths hTest hSynced hCur => ?_, fun s hLegal hWidths hSamples hTest hSynced hEnd => ?_,
    fun s hLegal hWidths hCur hWp hTest hSynced => ?_⟩
  · exact ⟨step_of_case hLegal (.advanced hWidths hTest hSynced hCur), hCur⟩
  · have hQuiescent : quiescent s = true := (quiescent_iff s).2 ⟨hTest, .inl ⟨hSynced, hEnd.le⟩⟩
    exact step_of_case hLegal (.rest hWidths hQuiescent hSamples)
  · refine ⟨advance 1 s, step_of_case hLegal (.advanced hWidths hTest hSynced (by rw [hCur, hWp])), ?_, rfl⟩
    rw [advance_cur, hCur]

theorem symRead_of_getElem? {s : State} {i : Nat} {y : Symbol} (h : s.sym[i]? = some y) : symRead s i = y := by
  rw [symRead, List.getD_eq_getElem?_getD, h, Option.getD_some]

theorem lt_wp_of_getElem? {s : State} {i : Nat} {y : Symbol} (h : s.sym[i]? = some y) : i < s.wp :=
  (List.getElem?_eq_some_iff.1 h).1

/-- Settles O31: the two symbols exist, so the pair is judged, as one of the cases `clocked` and `lost`. -/
theorem stepJudgesThePairByItsKinds : Obligations.StepJudgesThePairByItsKinds := by
  intro s a b hLegal hWidths hTest hSynced hFirst hSecond
  have ha := symRead_of_getElem? hFirst
  have hb := symRead_of_getElem? hSecond
  have hCur : s.cur + 2 ≤ s.wp := lt_wp_of_getElem? hSecond
  refine ⟨?zeros, ?ones, fun hNotZero hNotOne => ?other⟩
  case zeros =>
    rintro rfl rfl
    exact step_of_case hLegal (.clocked false hWidths hTest hSynced hCur ha hb)
  case ones =>
    rintro rfl rfl
    exact step_of_case hLegal (.clocked true hWidths hTest hSynced hCur ha hb)
  case other =>
    rw [← ha, ← hb] at hNotZero hNotOne
    exact step_of_case hLegal (.lost hWidths hTest hSynced hCur hNotZero hNotOne)

theorem decode_pairWord_eq_los_iff (c : Config) (a b : Symbol9) :
    (∃ p q, decode c (.pair (pairWord a b)) = .ok (.fdLos p q)) ↔
      ¬(a.kind = .zero ∧ b.kind = .zero) ∧ ¬(a.kind = .one ∧ b.kind = .one) := by
  rw [decode_pairWord]
  obtain ⟨ha, hb, hSel⟩ | ⟨ha, hb, hSel⟩ | ⟨hNotZero, hNotOne, hSel⟩ := selectPair_cases a b
  · simp [hSel, ha, hb]
  · simp [hSel, ha, hb]
  · simp [hSel, hNotZero, hNotOne]

/-- Settles O34: the pairs left over by FD.BIT0 and FD.BIT1 select FD.LOS, whose effect is `loseSync`; the step of the
example is its case `lost`. -/
theorem fdLosRule : Obligations.FdLosRule := by
  refine ⟨decode_pairWord_eq_los_iff, exec_fdLos, ?ex⟩
  case ex =>
    intro s hLegal hWidths hTest hSynced hBlk hIdx hLos hCur _ hFirst hSecond
    have hLost : StepCase s (loseSync s) := by
      refine .lost hWidths hTest hSynced ?_ ?_ ?_
      · rw [hCur]; exact lt_wp_of_getElem? hSecond
      · rw [hCur, symRead_of_getElem? hFirst]; simp
      · rw [hCur, symRead_of_getElem? hSecond]; simp
    rw [step_of_case hLegal hLost, loseSync, advance, emit, hBlk, hIdx, hLos, hCur]
    rfl

/-- Settles O40: quiescence as rule R167 writes it, with `CUR` at most `WP`. -/
theorem quiescentCursorStandsAtTheEnd : Obligations.QuiescentCursorStandsAtTheEnd := by
  intro s hInv hQuiescent
  have hCur := hInv.curRange
  obtain ⟨hTest, ⟨hSynced, hEnd⟩ | ⟨hSynced, hEnd⟩⟩ := (quiescent_iff s).1 hQuiescent
  · exact ⟨hTest, fun _ => le_antisymm hCur hEnd, fun h => Bool.noConfusion (hSynced.symm.trans h)⟩
  · exact ⟨hTest, fun h => Bool.noConfusion (hSynced.symm.trans h), fun _ => by omega⟩

end Sys2Proof.Machine
end

section
/-! PROOFS. What every operation and every step leaves alone (spec/10_state.md section 1, rules R36, R103, R104, R108, R140,
R147 and R174), read off the operations' field lemmas and the cases of the step. -/

namespace Sys2Proof.Machine

/-! ### The operations' frame -/

/-- Settles O36: the field lemmas of the named operations, for each operation of the table. -/
theorem operationsWriteOnlyTheirState : Obligations.OperationsWriteOnlyTheirState := by
  intro i s t hExec
  cases i <;> cases hExec <;> simp

/-- Settles O35: only `advance` writes `CUR`, and a step is at most one of its uses. -/
theorem cursorMovesOnlyAsTheTableSays : Obligations.CursorMovesOnlyAsTheTableSays := by
  refine ⟨fun i s t hExec => ?_, fun s t hStep => ?_⟩
  · cases i <;> cases hExec <;> simp
  · obtain ⟨-, hCase⟩ := step_cases hStep
    cases hCase <;> simp

/-! ### The step's frame -/

variable {s t : State}

/-- A step keeps the mode and `OUT`, or it is the match, or it is the loss of sync (rule R140). -/
theorem StepCase.mode_cases (h : StepCase s t) :
    (t.synced = s.synced ∧ t.out = s.out) ∨ (s.wt = false ∧ t = enterSync s) ∨
      (s.wt = true ∧ s.synced = true ∧ s.cur + 2 ≤ s.wp ∧ t = loseSync s) := by
  cases h with
  | matched _ hTest _ => exact .inr (.inl ⟨hTest, rfl⟩)
  | lost _ hTest hSynced hCur _ _ => exact .inr (.inr ⟨hTest, hSynced, hCur, rfl⟩)
  | clocked b => exact .inl ⟨shift_synced b s, shift_out b s⟩
  | rest | classify | missed | advanced | transition | held => exact .inl ⟨rfl, rfl⟩

/-- Settles O37: the two cases that change the mode set it to different values. -/
theorem modeChangesOnlyByMatchAndLossOfSync : Obligations.ModeChangesOnlyByMatchAndLossOfSync := by
  intro s t hStep
  obtain ⟨hSame, -⟩ | ⟨hTest, rfl⟩ | ⟨hTest, hSynced, hCur, rfl⟩ := (step_cases hStep).2.mode_cases
  · exact ⟨fun hBefore hAfter => Bool.noConfusion (hAfter.symm.trans (hSame.trans hBefore)),
      fun hBefore hAfter => Bool.noConfusion (hAfter.symm.trans (hSame.trans hBefore))⟩
  · exact ⟨fun _ _ => ⟨hTest, rfl⟩, fun _ hAfter => Bool.noConfusion hAfter⟩
  · exact ⟨fun hBefore _ => Bool.noConfusion (hSynced.symm.trans hBefore), fun _ _ => ⟨hTest, hCur, rfl⟩⟩

/-- A step appends no record or one. -/
theorem StepCase.exists_out (h : StepCase s t) : ∃ rs, t.out = s.out ++ rs ∧ rs.length ≤ 1 := by
  obtain ⟨-, hOut⟩ | ⟨-, rfl⟩ | ⟨-, -, -, rfl⟩ := h.mode_cases
  · exact ⟨[], by simpa using hOut, Nat.zero_le 1⟩
  · exact ⟨_, enterSync_out s, le_rfl⟩
  · exact ⟨_, loseSync_out s, le_rfl⟩

/-- A step appends no symbol or, classifying, one. -/
theorem StepCase.exists_sym (h : StepCase s t) : ∃ ys, t.sym = s.sym ++ ys := by
  cases h with
  | classify w ws y => exact ⟨[y], rfl⟩
  | clocked b => exact ⟨[], by simp⟩
  | rest | matched | missed | advanced | lost | transition | held => exact ⟨[], (List.append_nil _).symm⟩

theorem StepCase.cfg_eq (h : StepCase s t) : t.cfg = s.cfg := by
  cases h <;> simp

/-- Settles O38: what a step appends, and that it counts BLOCK records and moves `CUR` upwards only. -/
theorem outputAndSymbolsOnlyGrow : Obligations.OutputAndSymbolsOnlyGrow := by
  intro s t hStep
  obtain ⟨-, hCase⟩ := step_cases hStep
  obtain ⟨ys, hSym⟩ := hCase.exists_sym
  obtain ⟨rs, hOut, hLength⟩ := hCase.exists_out
  refine ⟨hCase.cfg_eq, ⟨ys, hSym.symm⟩, ⟨rs, hOut.symm⟩, ?_, ?_, ?_⟩
  · rw [hOut, List.length_append]
    omega
  · cases hCase <;> simp
  · cases hCase <;> simp

/-- With a legal configuration a step leaves `HIGH` and adds no width, or it is a transition, which finds the queue empty. -/
theorem StepCase.high_cases (hLegal : configLegal s.cfg = true) (h : StepCase s t) :
    (t.high = s.high ∧ (t.widths = s.widths ∨ t.widths = s.widths.tail) ∧
      (t.dist = s.dist ∨ t.dist.toNat = min (s.dist.toNat + 1) s.cfg.wmax)) ∨
    (s.widths = [] ∧ ∃ vs, t = afterTransition (!s.high) { s with samples := vs }) := by
  cases h with
  | classify w ws y hWidths => exact .inl ⟨rfl, .inr (by rw [hWidths]; rfl), .inl rfl⟩
  | transition v vs hWidths =>
    exact .inr ⟨hWidths, vs, recordWidth_countSample (s := { s with samples := vs }) _ hLegal⟩
  | held v vs =>
    exact .inl ⟨rfl, .inl rfl, .inr (countSample_toNat { s with samples := vs } (wmax_le_of_configLegal hLegal))⟩
  | clocked b => exact .inl ⟨shift_high b s, .inl (shift_widths b s), .inl (shift_dist b s)⟩
  | rest | matched | missed | advanced | lost => exact .inl ⟨rfl, .inl rfl, .inl rfl⟩

/-- Settles O19: a step that changes `HIGH` is a transition, which records the width. -/
theorem widthIsRecordedExactlyWhenHighChanges : Obligations.WidthIsRecordedExactlyWhenHighChanges := by
  intro s t hStep
  obtain ⟨hLegal, hCase⟩ := step_cases hStep
  obtain ⟨hHigh, hWidths, hDist⟩ | ⟨hWidths, vs, rfl⟩ := hCase.high_cases hLegal
  · exact ⟨fun hChanged => absurd hHigh hChanged, fun _ => ⟨hWidths, hDist⟩⟩
  · refine ⟨fun _ => ⟨rfl, hWidths, ?_⟩, fun hSame => absurd hSame (Bool.not_ne_self s.high)⟩
    simp only [afterTransition, hWidths]
    rfl

/-! ### Runs -/

/-- The inversion of a run of at least one step that goes on. -/
theorem run_succ_eq_next {n : Nat} (h : Host.Core.run Sys2Proof.core (n + 1) s = .next t) :
    ∃ u, step s = .next u ∧ Host.Core.run Sys2Proof.core n u = .next t := by
  simp only [Host.Core.run] at h
  split at h
  · next u hu => exact ⟨u, hu, h⟩
  · cases h
  · cases h

/-- While every waiting sample lies in the band, a step is no transition and finds no width to classify (rule R108). -/
theorem StepCase.inBand (h : StepCase s t) (hWidths : s.widths = [])
    (hBand : ∀ v ∈ s.samples, -s.cfg.t ≤ v.toInt ∧ v.toInt ≤ s.cfg.t) :
    t.high = s.high ∧ t.sym = s.sym ∧ t.widths = [] ∧ t.samples <:+ s.samples := by
  cases h with
  | classify w ws y hw => cases hWidths.symm.trans hw
  | transition v vs _ _ hSamples hCross =>
    have hv := hBand v (by rw [hSamples]; exact List.mem_cons_self)
    omega
  | held v vs _ _ hSamples => exact ⟨rfl, rfl, hWidths, [v], hSamples.symm⟩
  | clocked b => simp [hWidths]
  | rest | matched | missed | advanced | lost => exact ⟨rfl, rfl, hWidths, List.suffix_rfl⟩

/-- Settles O20, by induction on the number of steps: a step keeps the condition on the samples, since they are a tail of
those before. -/
theorem samplesInsideTheBandCauseNothing : Obligations.SamplesInsideTheBandCauseNothing := by
  intro n
  induction n with
  | zero =>
    intro s t hWidths _ hRun
    cases hRun
    exact ⟨rfl, rfl, hWidths, List.suffix_rfl⟩
  | succ n ih =>
    intro s t hWidths hBand hRun
    obtain ⟨u, hStep, hRun⟩ := run_succ_eq_next hRun
    obtain ⟨-, hCase⟩ := step_cases hStep
    obtain ⟨hHigh, hSym, hWidths, hSamples⟩ := hCase.inBand hWidths hBand
    have hBand : ∀ v ∈ u.samples, -u.cfg.t ≤ v.toInt ∧ v.toInt ≤ u.cfg.t := by
      rw [hCase.cfg_eq]
      exact fun v hv => hBand v (hSamples.subset hv)
    obtain ⟨hHigh', hSym', hWidths', hSamples'⟩ := ih u t hWidths hBand hRun
    exact ⟨hHigh'.trans hHigh, hSym'.trans hSym, hWidths', hSamples'.trans hSamples⟩

/-! ### The distance counter -/

/-- Saturating before or after counting makes no difference (rule R21). -/
theorem saturate_count (d wmax : Nat) : min (min d wmax + 1) wmax = min (d + 1) wmax := by omega

/-- A width is retained or dropped alike, and alike in value, with both counters. -/
theorem retained_saturated (d wmax : Nat) :
    (if min d wmax < wmax then [min d wmax] else []) = if d < wmax then [d] else [] := by
  by_cases h : d < wmax
  · rw [min_eq_left h.le]
  · rw [min_eq_right (not_lt.1 h), if_neg (lt_irrefl wmax), if_neg h]

/-- Settles O21, by induction on the samples: the saturating counter stands at the minimum of the unbounded one and `WMAX`. -/
theorem saturationOfTheDistanceIsUnobservable : Obligations.SaturationOfTheDistanceIsUnobservable := by
  intro c high d vs
  induction vs generalizing high d with
  | nil => rfl
  | cons v vs ih =>
    have ihZero (high : Bool) := ih high 0
    simp only [Nat.zero_min] at ihZero
    simp only [retainedWidths, saturate_count, retained_saturated, ih, ihZero]

end Sys2Proof.Machine
end

section
/-! PROOFS. The invariant of rule R39 is kept by every step, so every run from a state that meets it goes on
(spec/10_state.md section 9, spec/60_exceptions.md sections 1 and 5). -/

namespace Sys2Proof.Machine

/-! ### What the classifier appends -/

/-- The symbol of a width that ZCD retains is legal: an `Unclassified` one is in neither band (rules R88, R118). -/
theorem symbolLegal_classify {c : Config} {w : Width} (hPos : 0 < w.toNat) (hLt : w.toNat < c.wmax) :
    symbolLegal c (classify c w) := by
  obtain hOne | ⟨hOne, hZero⟩ | ⟨hOne, hZero⟩ := clsRows_exhaustive c w
  · rw [classify, if_pos hOne]; trivial
  · rw [classify, if_neg hOne, if_pos hZero]; trivial
  · rw [classify, if_neg hOne, if_neg hZero]; exact ⟨hPos, hLt, hOne, hZero⟩

/-! ### The ledger, one record or one move of `CUR` at a time -/

variable {s : State}

/-- A window that matches can be recorded: it ends at `L` or later, and after the SYNC before it, since an untested position
is past that one (rules R134, R135). -/
theorem ledgerAgrees_enterSync (hInv : Inv s) (hTest : s.wt = false)
    (hMatch : (window s).map Symbol.kind = s.cfg.pat.map PatBit.kind) : ledgerAgrees (enterSync s) := by
  obtain ⟨g, hReplay, -, hBlocks, hLos, hPos, hSync, -⟩ := hInv.ledger
  obtain ⟨-, -, -, -, -, -, hLen, -⟩ := (configLegal_iff s.cfg).1 hInv.legal
  have hAfter : g.lastSync.all (fun p => decide (p < s.cur)) = true := by
    simpa [Option.all_eq_true, hTest] using hSync
  refine ⟨{ g with synced := true, lastSync := some s.cur, lastPos := s.cur }, ?_, rfl, hBlocks, hLos, le_rfl, ?_, ?_⟩
  · rw [enterSync_out, replay_append, enterSync_cfg, hReplay, Option.bind_some, Ledger.read,
      if_pos ⟨len_le_cur_of_match hLen hMatch, hPos, hAfter⟩]
  · rintro p ⟨⟩
    exact le_rfl
  · exact fun _ => ⟨s.cur, rfl, rfl⟩

/-- A loss of sync can be recorded: while Synced `CUR` is a whole number of pairs past the SYNC, eight for each byte of the
Block (rules R153 to R156). -/
theorem ledgerAgrees_loseSync (hInv : Inv s) (hTest : s.wt = true) (hSynced : s.synced = true) :
    ledgerAgrees (loseSync s) := by
  obtain ⟨g, hReplay, hMode, hBlocks, hLos, hPos, hSync, hFrame⟩ := hInv.ledger
  obtain ⟨p, hp, hCur⟩ := hFrame hSynced
  have hNbits : s.nbits.toNat < 8 := s.nbits.isLt
  have hPairs : (s.cur - p) % 2 = 0 ∧ s.blk.length = (s.cur - p) / 2 / 8 := by omega
  refine ⟨{ g with synced := false, blocks := g.blocks + 1, lastLos := s.cur, lastPos := s.cur }, ?_, rfl,
    congrArg (· + 1) hBlocks, rfl, Nat.le_succ s.cur, ?_, nofun⟩
  · rw [loseSync_out, replay_append, loseSync_cfg, hReplay, Option.bind_some, Ledger.read, hp]
    refine if_pos ⟨hMode.trans hSynced, hBlocks.symm, hPos, by rw [hLos], ?_, rfl, hPairs⟩
    rw [hBlocks, hLos]
    exact hInv.losPassed
  · intro q hq
    have hq := hSync q hq
    rw [if_pos hTest] at hq
    exact Nat.lt_succ_of_le hq

/-- Moving `CUR` past a tested position while Unsynced. -/
theorem ledgerAgrees_advance (h : ledgerAgrees s) (hTest : s.wt = true) (hSynced : s.synced = false) :
    ledgerAgrees (advance 1 s) := by
  obtain ⟨g, hReplay, hMode, hBlocks, hLos, hPos, hSync, -⟩ := h
  refine ⟨g, hReplay, hMode, hBlocks, hLos, Nat.le_succ_of_le hPos, fun q hq => ?_,
    fun h => Bool.noConfusion (hSynced.symm.trans h)⟩
  have hq := hSync q hq
  rw [if_pos hTest] at hq
  exact Nat.lt_succ_of_le hq

/-- One more bit is counted by `NBITS`, or by `BLK` when it is the eighth (rules R141, R145). -/
theorem shift_bitCount (b : Bool) (s : State) :
    8 * (shift b s).blk.length + (shift b s).nbits.toNat = 8 * s.blk.length + s.nbits.toNat + 1 := by
  have hNbits : s.nbits.toNat < 8 := s.nbits.isLt
  have hZero : (0 : BitVec 3).toNat = 0 := rfl
  have hOne : (1 : BitVec 3).toNat = 1 := rfl
  rw [shift_blk, shift_nbits]
  split
  · rw [List.length_append, List.length_singleton, hZero]
    omega
  · rw [BitVec.toNat_add, hOne]
    omega

/-- Clocking a pair's bit moves `CUR` by the two symbols of the pair (rule R147). -/
theorem ledgerAgrees_clocked (b : Bool) (h : ledgerAgrees s) (hTest : s.wt = true) :
    ledgerAgrees (advance 2 (shift b s)) := by
  obtain ⟨g, hReplay, hMode, hBlocks, hLos, hPos, hSync, hFrame⟩ := h
  have hCount := shift_bitCount b s
  refine ⟨g, ?_, ?_, ?_, ?_, ?_, fun q hq => ?_, fun hSynced => ?_⟩
  · simpa using hReplay
  · simpa using hMode
  · simpa using hBlocks
  · simpa using hLos
  · rw [advance_cur, shift_cur]
    omega
  · have hq := hSync q hq
    rw [if_pos hTest] at hq
    rw [advance_wt, if_neg Bool.false_ne_true, advance_cur, shift_cur]
    omega
  · rw [advance_synced, shift_synced] at hSynced
    obtain ⟨p, hp, hCur⟩ := hFrame hSynced
    refine ⟨p, hp, ?_⟩
    rw [advance_cur, shift_cur, advance_blk, advance_nbits]
    omega

/-- A bit is clocked into `ACC` and `BLK` only, so the rest of the invariant asks for the move of `CUR` alone. -/
theorem inv_clocked (b : Bool) (hInv : Inv s) (hTest : s.wt = true) (hSynced : s.synced = true)
    (hCur : s.cur + 2 ≤ s.wp) : Inv (advance 2 (shift b s)) where
  legal := by simpa using hInv.legal
  distRange := by simpa using hInv.distRange
  curRange := by simpa using hCur
  symLegal := by simpa using hInv.symLegal
  oneWidth := by simpa using hInv.oneWidth
  widthsLegal := by simpa using hInv.widthsLegal
  losRange := by simpa using Nat.le_add_right_of_le hInv.losRange
  losPassed := fun h => by
    rw [advance_blkidx, shift_blkidx] at h
    simpa using Nat.lt_add_right 2 (hInv.losPassed h)
  blkSynced := fun _ => by simpa using hSynced
  ledger := ledgerAgrees_clocked b hInv.ledger hTest

/-! ### The detector -/

/-- A counted width is at most `WMAX`. -/
theorem countSample_dist_le (hLegal : configLegal s.cfg = true) : (countSample s).dist.toNat ≤ s.cfg.wmax := by
  rw [countSample_toNat s (wmax_le_of_configLegal hLegal)]
  exact Nat.min_le_right _ _

theorem inv_held (vs : List Sample) (hInv : Inv s) : Inv (countSample { s with samples := vs }) :=
  { hInv with distRange := countSample_dist_le (s := { s with samples := vs }) hInv.legal }

/-- The width a transition leaves in the empty queue is a counted one below `WMAX`, if there is one (rule R106). -/
theorem mem_afterTransition_widths {high : Bool} {w : Width} (hLegal : configLegal s.cfg = true) (hWidths : s.widths = [])
    (hw : w ∈ (afterTransition high s).widths) : 0 < w.toNat ∧ w.toNat < s.cfg.wmax := by
  have hWmax := wmax_le_of_configLegal hLegal
  simp only [afterTransition, hWidths] at hw
  split at hw
  · obtain rfl := List.mem_singleton.1 hw
    rw [BitVec.toNat_ofNat]
    omega
  · cases hw

theorem afterTransition_widths_length (high : Bool) (hWidths : s.widths = []) :
    (afterTransition high s).widths.length ≤ 1 := by
  simp only [afterTransition, hWidths]
  split
  · exact le_rfl
  · exact Nat.zero_le 1

theorem inv_afterTransition (high : Bool) (vs : List Sample) (hInv : Inv s) (hWidths : s.widths = []) :
    Inv (afterTransition high { s with samples := vs }) :=
  { hInv with
    distRange := Nat.zero_le _
    oneWidth := afterTransition_widths_length (s := { s with samples := vs }) high hWidths
    widthsLegal := fun _ => mem_afterTransition_widths (s := { s with samples := vs }) hInv.legal hWidths }

/-! ### Every step -/

/-- Settles O39, case by case: each case names the parts of the invariant that it writes. -/
theorem stepKeepsTheInvariant : Obligations.StepKeepsTheInvariant := by
  intro s t hInv hStep
  obtain ⟨hLegal, hCase⟩ := step_cases hStep
  cases hCase with
  | rest => exact hInv
  | classify w ws y hWidths hPos hLt hy =>
    have hOne := hInv.oneWidth
    rw [hWidths, List.length_cons] at hOne
    refine { hInv with curRange := ?_, symLegal := ?_, oneWidth := ?_, widthsLegal := ?_ }
    · rw [symAppend_wp]
      exact Nat.le_succ_of_le hInv.curRange
    · intro z hz
      obtain hOld | hNew := List.mem_append.1 hz
      · exact hInv.symLegal z hOld
      · rw [List.mem_singleton.1 hNew, hy]
        exact symbolLegal_classify hPos hLt
    · exact (Nat.le_succ ws.length).trans hOne
    · exact fun v hv => hInv.widthsLegal v (by rw [hWidths]; exact List.mem_cons_of_mem w hv)
  | matched _ hTest hMatch =>
    exact { hInv with blkSynced := fun _ => rfl, ledger := ledgerAgrees_enterSync hInv hTest hMatch }
  | missed _ hTest _ =>
    obtain ⟨g, hReplay, hMode, hBlocks, hLos, hPos, hSync, hFrame⟩ := hInv.ledger
    refine { hInv with ledger := ⟨g, hReplay, hMode, hBlocks, hLos, hPos, fun p hp => ?_, hFrame⟩ }
    have hp := hSync p hp
    rw [hTest, if_neg Bool.false_ne_true] at hp
    exact hp.le
  | advanced _ hTest hSynced hCur =>
    exact { hInv with
      curRange := hCur
      losRange := Nat.le_succ_of_le hInv.losRange
      losPassed := fun h => Nat.lt_succ_of_lt (hInv.losPassed h)
      ledger := ledgerAgrees_advance hInv.ledger hTest hSynced }
  | clocked b _ hTest hSynced hCur => exact inv_clocked b hInv hTest hSynced hCur
  | lost _ hTest hSynced hCur =>
    exact { hInv with
      curRange := (Nat.le_succ _).trans hCur
      losRange := Nat.le_succ s.cur
      losPassed := fun _ => Nat.lt_succ_self s.cur
      blkSynced := fun h => absurd rfl h
      ledger := ledgerAgrees_loseSync hInv hTest hSynced }
  | transition v vs hWidths =>
    rw [recordWidth_countSample (s := { s with samples := vs }) _ hLegal]
    exact inv_afterTransition _ vs hInv hWidths
  | held v vs => exact inv_held vs hInv

/-! ### Every run -/

/-- The word of an enabled micro-operation always decodes (rule R180). -/
theorem exists_decode_scanWord {x : OpWord} (h : scanWord s = some x) : ∃ i, decode s.cfg x = .ok i := by
  obtain ⟨-, rfl⟩ | ⟨-, -, -, rfl⟩ | ⟨-, -, -, rfl⟩ := scanWord_cases h
  · exact ⟨_, decode_testWord _ _ _⟩
  · exact ⟨.scnAdv, rfl⟩
  · exact ⟨_, decode_pairWord _ _ _⟩

/-- A step goes on when no waiting width is reserved: no other word is ever rejected (rule R88). -/
theorem exists_step (hLegal : configLegal s.cfg = true) (hWidths : ∀ w ∈ s.widths, 0 < w.toNat ∧ w.toNat < s.cfg.wmax) :
    ∃ t, step s = .next t := by
  cases hNext : nextWord s with
  | none => exact ⟨s, by simp only [step, if_pos hLegal, hNext]⟩
  | some next =>
    obtain ⟨x, s'⟩ := next
    have hDecode : ∃ i, decode s.cfg x = .ok i := by
      obtain ⟨w, ws, hw, rfl, -⟩ | ⟨-, hScan, -⟩ | ⟨-, -, v, vs, -, rfl, -⟩ := nextWord_cases hNext
      · obtain ⟨hPos, hLt⟩ := hWidths w (by rw [hw]; exact List.mem_cons_self)
        exact ⟨_, decode_cls_of_notReserved hPos hLt⟩
      · exact exists_decode_scanWord hScan
      · exact ⟨_, decode_zcdWord _ _ _⟩
    obtain ⟨i, hi⟩ := hDecode
    obtain ⟨t, ht⟩ := exec_next i s'
    exact ⟨t, (step_of_nextWord hLegal hNext hi).trans ht⟩

/-- Settles O42, by induction on the number of steps: a step goes on, to a state that meets the invariant again. -/
theorem noStepFaultsOrRefuses : Obligations.NoStepFaultsOrRefuses := by
  intro n
  induction n with
  | zero => exact fun s _ => ⟨s, rfl⟩
  | succ n ih =>
    intro s hInv
    obtain ⟨u, hStep⟩ := exists_step hInv.legal hInv.widthsLegal
    rw [run_succ_of_next hStep]
    exact ih u (stepKeepsTheInvariant s u hInv hStep)

/-- The invariant along a run. -/
theorem inv_of_run {n : Nat} {s t : State} (hInv : Inv s) (hRun : Host.Core.run Sys2Proof.core n s = .next t) : Inv t := by
  induction n generalizing s with
  | zero => cases hRun; exact hInv
  | succ n ih =>
    obtain ⟨u, hStep, hRun⟩ := run_succ_eq_next hRun
    exact ih (stepKeepsTheInvariant s u hInv hStep) hRun

end Sys2Proof.Machine
end

section
/-! PROOFS. The bits of a frame (spec/43_frame_decoder.md sections 2 and 4): the bits clocked stand in the top of `ACC`, the
oldest lowest, and eight of them are a byte; so while Synced `BLK` and `ACC` hold the bits of the pairs since the SYNC. -/

namespace Sys2Proof.Machine

/-! ### The accumulator -/

/-- The bits `bs`, oldest first, are the top bits of `acc` (rule R141). -/
def topBitsAre (acc : BitVec 8) (bs : List Bool) : Prop :=
  ∀ j, j < bs.length → acc.getLsbD (8 - bs.length + j) = bs.getD j false

theorem topBitsAre_nil (acc : BitVec 8) : topBitsAre acc [] := fun _ h => absurd h (Nat.not_lt_zero _)

/-- One more bit moves the others down by one place (rule R141). -/
theorem topBitsAre_shiftIn {acc : BitVec 8} {bs : List Bool} (b : Bool) (hLength : bs.length < 8)
    (h : topBitsAre acc bs) : topBitsAre (shiftIn acc b) (bs ++ [b]) := by
  intro j hj
  rw [List.length_append, List.length_singleton] at hj ⊢
  rw [shiftIn_getLsbD _ _ _ (by omega)]
  by_cases hLast : j = bs.length
  · rw [if_pos (by omega), hLast, List.getD_append_right _ _ _ _ le_rfl, Nat.sub_self]
    rfl
  · have hOld : j < bs.length := by omega
    have hPlace : 8 - (bs.length + 1) + j + 1 = 8 - bs.length + j := by omega
    rw [if_neg (by omega), hPlace, h j hOld, List.getD_append _ _ _ _ hOld]

/-- Whatever `acc` held, up to eight bits clocked in are its top bits. -/
theorem topBitsAre_foldl_shiftIn (acc : BitVec 8) {bs : List Bool} (hLength : bs.length ≤ 8) :
    topBitsAre (bs.foldl shiftIn acc) bs := by
  induction bs using List.reverseRecOn with
  | nil => exact topBitsAre_nil acc
  | append_singleton bs b ih =>
    rw [List.length_append, List.length_singleton] at hLength
    rw [List.foldl_concat]
    exact topBitsAre_shiftIn b hLength (ih (Nat.le_of_succ_le hLength))

/-- All eight bits of a byte. -/
theorem getLsbD_of_topBitsAre {acc : BitVec 8} {bs : List Bool} (hLength : bs.length = 8) (h : topBitsAre acc bs) (j : Nat)
    (hj : j < 8) : acc.getLsbD j = bs.getD j false := by
  have hBit := h j (by omega)
  rwa [hLength, Nat.sub_self, Nat.zero_add] at hBit

/-! ### Eight shifts -/

/-- Fewer than eight shifts from a byte boundary (rule R141). -/
theorem foldl_shift_of_lt {s : State} (hNbits : s.nbits = 0) {bs : List Bool} (hLength : bs.length < 8) :
    bs.foldl (fun t x => shift x t) s =
      { s with acc := bs.foldl shiftIn s.acc, nbits := BitVec.ofNat 3 bs.length } := by
  induction bs using List.reverseRecOn with
  | nil =>
    have hZero : s.nbits = BitVec.ofNat 3 ([] : List Bool).length := hNbits
    rw [List.foldl_nil, List.foldl_nil, ← hZero]
  | append_singleton bs b ih =>
    rw [List.length_append, List.length_singleton] at hLength ⊢
    have hBefore : (BitVec.ofNat 3 bs.length).toNat < 7 := by
      rw [BitVec.toNat_ofNat]
      omega
    rw [List.foldl_concat, ih (by omega), shift_of_lt b _ hBefore, List.foldl_concat, BitVec.ofNat_add]
    rfl

/-- The eighth shift commits the byte (rule R145). -/
theorem foldl_shift_eight {s : State} (hNbits : s.nbits = 0) {bs : List Bool} (hLength : bs.length = 8) :
    bs.foldl (fun t x => shift x t) s =
      { s with blk := s.blk ++ [bs.foldl shiftIn s.acc], acc := 0, nbits := 0 } := by
  obtain rfl | ⟨bs, b, rfl⟩ := bs.eq_nil_or_concat
  · cases hLength
  · rw [List.concat_eq_append] at hLength ⊢
    have hSeven : bs.length = 7 := by
      rw [List.length_append, List.length_singleton] at hLength
      omega
    rw [List.foldl_concat, foldl_shift_of_lt hNbits (by omega), hSeven, shift_of_eq b _ rfl, List.foldl_concat]

/-- Settles O30: the eighth shift commits the accumulator of the eight bits, which are all its bits. -/
theorem eightShiftsAssembleAByteLsbFirst : Obligations.EightShiftsAssembleAByteLsbFirst := by
  refine ⟨fun s bs hNbits hLength => ⟨bs.foldl shiftIn s.acc, ?bits, foldl_shift_eight hNbits hLength⟩,
    fun s hNbits hAcc => ?ex⟩
  case bits => exact getLsbD_of_topBitsAre hLength (topBitsAre_foldl_shiftIn s.acc hLength.le)
  case ex =>
    rw [foldl_shift_eight hNbits rfl, hAcc]
    rfl

/-! ### The bits that `BLK` and `ACC` hold -/

/-- `BLK` holds the bits `bs` eight to a byte, and `ACC` the rest of them in its top `NBITS` bits. -/
structure HoldsBits (s : State) (bs : List Bool) : Prop where
  count : bs.length = 8 * s.blk.length + s.nbits.toNat
  bytes : ∀ k j, k < s.blk.length → j < 8 → (s.blk.getD k 0).getLsbD j = bs.getD (8 * k + j) false
  rest  : topBitsAre s.acc (bs.drop (8 * s.blk.length))

/-- `frameAgrees`, with the bits held named. -/
theorem frameAgrees_iff (s : State) :
    frameAgrees s ↔ (s.synced = true → ∃ p bs, lastSyncPos s.out = some p ∧ p ≤ s.cur ∧ s.cur ≤ s.wp ∧
      pairBits ((s.sym.drop p).take (s.cur - p)) = some bs ∧ HoldsBits s bs) := by
  have hRest {bs : List Bool} (hCount : bs.length = 8 * s.blk.length + s.nbits.toNat) :
      topBitsAre s.acc (bs.drop (8 * s.blk.length)) ↔ ∀ j, j < s.nbits.toNat →
        s.acc.getLsbD (8 - s.nbits.toNat + j) = bs.getD (8 * s.blk.length + j) false := by
    simp [topBitsAre, hCount, List.getD_eq_getElem?_getD]
  constructor
  · intro h hSynced
    obtain ⟨p, bs, hSync, hLe, hCur, hPairs, hCount, hBytes, hAcc⟩ := h hSynced
    exact ⟨p, bs, hSync, hLe, hCur, hPairs, hCount, hBytes, (hRest hCount).2 hAcc⟩
  · intro h hSynced
    obtain ⟨p, bs, hSync, hLe, hCur, hPairs, hCount, hBytes, hAcc⟩ := h hSynced
    exact ⟨p, bs, hSync, hLe, hCur, hPairs, hCount, hBytes, (hRest hCount).1 hAcc⟩

variable {s : State} {bs : List Bool}

/-- The bits of the whole bytes are not touched by one more bit. -/
theorem HoldsBits.bytes_concat (h : HoldsBits s bs) (b : Bool) {k j : Nat} (hk : k < s.blk.length) (hj : j < 8) :
    (s.blk.getD k 0).getLsbD j = (bs ++ [b]).getD (8 * k + j) false := by
  have hCount := h.count
  rw [h.bytes k j hk hj, List.getD_append _ _ _ _ (by omega)]

/-- The accumulator after one more bit, whether it completes the byte or not. -/
theorem HoldsBits.rest_concat (h : HoldsBits s bs) (b : Bool) :
    topBitsAre (shiftIn s.acc b) ((bs ++ [b]).drop (8 * s.blk.length)) := by
  have hCount := h.count
  have hNbits : s.nbits.toNat < 8 := s.nbits.isLt
  rw [List.drop_append_of_le_length (by omega)]
  exact topBitsAre_shiftIn b (by rw [List.length_drop]; omega) h.rest

/-- `shift` adds its bit to the bits held (rules R141, R145). -/
theorem HoldsBits.shift_concat (h : HoldsBits s bs) (b : Bool) : HoldsBits (shift b s) (bs ++ [b]) := by
  have hCount := h.count
  have hTotal : (bs ++ [b]).length = 8 * (shift b s).blk.length + (shift b s).nbits.toNat := by
    rw [List.length_append, List.length_singleton, shift_bitCount, hCount]
  refine ⟨hTotal, ?_, ?_⟩
  · intro k j hk hj
    rw [shift_blk] at hk ⊢
    split at hk
    · next hEighth =>
      rw [if_pos hEighth]
      obtain hOld | rfl := Nat.lt_succ_iff_lt_or_eq.1 (List.length_append ▸ hk)
      · rw [List.getD_append _ _ _ _ hOld]
        exact h.bytes_concat b hOld hj
      · have hLength : ((bs ++ [b]).drop (8 * s.blk.length)).length = 8 := by
          rw [List.length_drop, List.length_append, List.length_singleton]
          omega
        rw [List.getD_append_right _ _ _ _ le_rfl, Nat.sub_self, List.getD_cons_zero,
          getLsbD_of_topBitsAre hLength (h.rest_concat b) j hj]
        simp [List.getD_eq_getElem?_getD]
    · next hBefore =>
      rw [if_neg hBefore]
      exact h.bytes_concat b hk hj
  · rw [shift_blk, shift_acc]
    split
    · next hEighth =>
      have hAll : (bs ++ [b]).length ≤ 8 * (s.blk ++ [shiftIn s.acc b]).length := by
        rw [List.length_append, List.length_append, List.length_singleton, List.length_singleton]
        omega
      rw [List.drop_eq_nil_of_le hAll]
      exact topBitsAre_nil 0
    · exact h.rest_concat b

/-! ### The pairs since the SYNC -/

/-- Pairs read one after another. -/
theorem pairBits_append {ys zs : List Symbol} {cs : List Bool} (hys : pairBits ys = some bs) (hzs : pairBits zs = some cs) :
    pairBits (ys ++ zs) = some (bs ++ cs) := by
  induction ys using pairBits.induct generalizing bs with
  | case1 => cases hys; exact hzs
  | case2 ys ih | case3 ys ih =>
    obtain ⟨as, has, rfl⟩ := Option.map_eq_some_iff.1 hys
    exact Option.map_eq_some_iff.2 ⟨as ++ cs, ih has, rfl⟩
  | case4 ys hNil hZeros hOnes => simp [pairBits] at hys

/-- An accepted pair is its bit (rule R142). -/
theorem pairBits_pair (b : Bool) {y z : Symbol} (hy : y = if b then .one else .zero) (hz : z = if b then .one else .zero) :
    pairBits [y, z] = some [b] := by
  subst hy hz
  cases b <;> rfl

/-- The pair at `CUR`, as the next two places of `SYM` (rule R54). -/
theorem take_two_drop_cur (h : s.cur + 2 ≤ s.wp) :
    (s.sym.drop s.cur).take 2 = [symRead s s.cur, symRead s (s.cur + 1)] := by
  have hSecond : s.cur + 1 < s.sym.length := h
  have hFirst : s.cur < s.sym.length := Nat.lt_of_succ_lt hSecond
  rw [List.drop_eq_getElem_cons hFirst, List.drop_eq_getElem_cons hSecond, symRead, symRead,
    List.getD_eq_getElem _ _ hFirst, List.getD_eq_getElem _ _ hSecond]
  rfl

/-- The symbols from `p` to two places past `CUR` are those up to `CUR` and the pair. -/
theorem take_drop_advance_two {p : Nat} (hp : p ≤ s.cur) (h : s.cur + 2 ≤ s.wp) :
    (s.sym.drop p).take (s.cur + 2 - p) =
      (s.sym.drop p).take (s.cur - p) ++ [symRead s s.cur, symRead s (s.cur + 1)] := by
  have hLength : s.cur + 2 - p = (s.cur - p) + 2 := by omega
  rw [hLength, List.take_add, List.drop_drop, Nat.add_sub_cancel' hp, take_two_drop_cur h]

/-! ### Every step -/

/-- A symbol appended lies past `CUR`, so it is none of the frame's. -/
theorem frameAgrees_symAppend (y : Symbol) (h : frameAgrees s) : frameAgrees (symAppend y s) := by
  intro hSynced
  obtain ⟨p, bs, hSync, hLe, hCur, hPairs, hBits⟩ := h hSynced
  have hWp : s.cur ≤ s.sym.length := hCur
  refine ⟨p, bs, hSync, hLe, ?_, ?_, hBits⟩
  · rw [symAppend_wp]
    exact Nat.le_succ_of_le hCur
  · rw [symAppend_sym, symAppend_cur, List.drop_append_of_le_length (hLe.trans hWp),
      List.take_append_of_le_length (by rw [List.length_drop]; omega)]
    exact hPairs

/-- After a SYNC there is no pair yet (rule R127). -/
theorem frameAgrees_enterSync (hCur : s.cur ≤ s.wp) : frameAgrees (enterSync s) := by
  refine (frameAgrees_iff _).2 fun _ => ⟨s.cur, [], ?_, le_rfl, hCur, ?_, rfl, ?_, topBitsAre_nil 0⟩
  · rw [enterSync_out, lastSyncPos_append_sync]
  · rw [enterSync_cur, Nat.sub_self, List.take_zero, pairBits]
  · exact fun k _ hk => absurd hk (Nat.not_lt_zero k)

/-- An accepted pair adds its bit to the pairs and to the bits held alike (rules R143, R144). -/
theorem frameAgrees_clocked (b : Bool) (h : frameAgrees s) (hSynced : s.synced = true) (hCur : s.cur + 2 ≤ s.wp)
    (hFirst : symRead s s.cur = if b then .one else .zero) (hSecond : symRead s (s.cur + 1) = if b then .one else .zero) :
    frameAgrees (advance 2 (shift b s)) := by
  obtain ⟨p, bs, hSync, hLe, -, hPairs, hBits⟩ := (frameAgrees_iff s).1 h hSynced
  have hShift := hBits.shift_concat b
  refine (frameAgrees_iff _).2 fun _ => ⟨p, bs ++ [b], ?_, ?_, ?_, ?_, hShift.count, hShift.bytes, hShift.rest⟩
  · rw [advance_out, shift_out, hSync]
  · rw [advance_cur, shift_cur]
    omega
  · simpa using hCur
  · rw [advance_sym, shift_sym, advance_cur, shift_cur, take_drop_advance_two hLe hCur]
    exact pairBits_append hPairs (pairBits_pair b hFirst hSecond)

/-- Settles O41, case by case: only a clocked bit, a SYNC and an appended symbol touch what the statement speaks of, and the
cases that leave or stay in Unsynced have nothing to show. -/
theorem stepKeepsTheFrameContents : Obligations.StepKeepsTheFrameContents := by
  intro s t hInv hFrame hStep
  obtain ⟨-, hCase⟩ := step_cases hStep
  cases hCase with
  | rest | missed | transition | held => exact hFrame
  | classify w ws y => exact frameAgrees_symAppend y (s := { s with widths := ws }) hFrame
  | matched => exact frameAgrees_enterSync hInv.curRange
  | advanced _ _ hSynced => exact frameAgrees_of_unsynced hSynced
  | clocked b _ _ hSynced hCur hFirst hSecond => exact frameAgrees_clocked b hFrame hSynced hCur hFirst hSecond
  | lost => exact frameAgrees_of_unsynced rfl

end Sys2Proof.Machine
end

section
/-! PROOFS. What the scan unit depends on (spec/20_memory.md section 8, spec/42_sync_scanner.md section 5, rules R64, R137,
R172): not on symbols past the ones it reads, and not on the detector. -/

namespace Sys2Proof.Machine

variable {s t : State}

/-! ### More symbols -/

theorem window_append (ys : List Symbol) (hCur : s.cur ≤ s.wp) : window { s with sym := s.sym ++ ys } = window s := by
  have hWp : s.cur ≤ s.sym.length := hCur
  unfold window
  dsimp only
  split
  · rw [List.drop_append_of_le_length (by omega),
      List.take_append_of_le_length (by rw [List.length_drop]; omega)]
  · rfl

theorem symRead_append (ys : List Symbol) {i : Nat} (hi : i < s.wp) :
    symRead { s with sym := s.sym ++ ys } i = symRead s i :=
  List.getD_append _ _ _ _ hi

theorem wp_append (ys : List Symbol) (s : State) : s.wp ≤ State.wp { s with sym := s.sym ++ ys } := by
  simp

theorem scanWord_append (ys : List Symbol) {x : OpWord} (hCur : s.cur ≤ s.wp) (hScan : scanWord s = some x) :
    scanWord { s with sym := s.sym ++ ys } = some x := by
  obtain ⟨hTest, rfl⟩ | ⟨hTest, hSynced, hSym, rfl⟩ | ⟨hTest, hSynced, hSym, rfl⟩ := scanWord_cases hScan
  · rw [← window_append ys hCur]
    exact scanWord_of_untested hTest
  · exact scanWord_of_advEnabled (s := { s with sym := s.sym ++ ys }) hTest hSynced (hSym.trans (wp_append ys s))
  · rw [← symRead_append ys (i := s.cur) (by omega), ← symRead_append ys (i := s.cur + 1) (by omega)]
    exact scanWord_of_pairEnabled (s := { s with sym := s.sym ++ ys }) hTest hSynced (hSym.trans (wp_append ys s))

theorem scanWord_ne_cls {x : OpWord} (hScan : scanWord s = some x) (w : Width) : x ≠ .cls w := by
  obtain ⟨-, rfl⟩ | ⟨-, -, -, rfl⟩ | ⟨-, -, -, rfl⟩ := scanWord_cases hScan <;> nofun

theorem shift_append (b : Bool) (ys : List Symbol) (s : State) :
    shift b { s with sym := s.sym ++ ys } = { shift b s with sym := s.sym ++ ys } := by
  unfold shift
  split <;> rfl

/-- Every operation but those of the classifier leaves room for symbols appended before it. -/
theorem exec_append (ys : List Symbol) {i : Instr} (hNotCls : ∀ w, encode i ≠ .cls w) (hExec : exec i s = .next t) :
    exec i { s with sym := s.sym ++ ys } = .next { t with sym := t.sym ++ ys } := by
  cases i with
  | clsOne w | clsZero w | clsUnc w => exact absurd rfl (hNotCls w)
  | fdBit0 xa xb => cases hExec; rw [exec_fdBit0, shift_append, advance_sym, shift_sym]; rfl
  | fdBit1 xa xb => cases hExec; rw [exec_fdBit1, shift_append, advance_sym, shift_sym]; rfl
  | zcdRise | zcdFall | zcdHold | scnTestMatch | scnTestMiss | scnAdv | fdLos => cases hExec; rfl

/-- Settles O44: the window and the pair lie below `WP`, and the word decodes to an operation whose own word it is, so to
none of the classifier's. -/
theorem enabledMicroOperationSurvivesAppends : Obligations.EnabledMicroOperationSurvivesAppends := by
  intro s ys x hCur hScan
  refine ⟨scanWord_append ys hCur hScan, fun i t hDecode hExec => exec_append ys (fun w => ?_) hExec⟩
  rw [(encodeOfDecodeIsTheWord _ _ _ hDecode).1]
  exact scanWord_ne_cls hScan w

/-! ### Another detector -/

theorem shift_withDetector (b : Bool) (high : Bool) (d : BitVec 7) (vs : List Sample) (s : State) :
    shift b { s with high := high, dist := d, samples := vs } =
      { shift b s with high := high, dist := d, samples := vs } := by
  unfold shift
  split <;> rfl

/-- A step of the scan unit, whatever the detector holds (rule R137). -/
theorem StepCase.withDetector (high : Bool) (d : BitVec 7) (vs : List Sample) (h : StepCase s t) (hWidths : s.widths = [])
    (hBusy : quiescent s = false) :
    StepCase { s with high := high, dist := d, samples := vs } { t with high := high, dist := d, samples := vs } ∧
      t.high = s.high ∧ t.dist = s.dist ∧ t.samples = s.samples := by
  cases h with
  | rest _ hQuiescent | transition _ _ _ hQuiescent | held _ _ _ hQuiescent => simp [hBusy] at hQuiescent
  | classify w ws y hw => cases hWidths.symm.trans hw
  | matched hw ht hm => exact ⟨.matched hw ht hm, rfl, rfl, rfl⟩
  | missed hw ht hm => exact ⟨.missed hw ht hm, rfl, rfl, rfl⟩
  | advanced hw ht hs hc => exact ⟨.advanced hw ht hs hc, rfl, rfl, rfl⟩
  | lost hw ht hs hc h0 h1 => exact ⟨.lost hw ht hs hc h0 h1, rfl, rfl, rfl⟩
  | clocked b hw ht hs hc ha hb =>
    have hCase := StepCase.clocked (s := { s with high := high, dist := d, samples := vs }) b hw ht hs hc ha hb
    rw [shift_withDetector] at hCase
    exact ⟨hCase, by simp, by simp, by simp⟩

/-- Settles O45: the cases of the scan unit do not mention the detector. -/
theorem scanUnitIgnoresTheDetector : Obligations.ScanUnitIgnoresTheDetector := by
  intro s t high d vs hWidths hBusy hStep
  obtain ⟨hLegal, hCase⟩ := step_cases hStep
  obtain ⟨hCase', hFrame⟩ := hCase.withDetector high d vs hWidths hBusy
  exact ⟨step_of_case hLegal hCase', hFrame⟩

end Sys2Proof.Machine
end

section
/-! PROOFS. The scan unit and the `run_scan` of rule R176 (spec/45_pipeline.md sections 2 and 4): turn for turn they do the
same, and each turn lowers `2 (WP - CUR) + (1 if WT = 0)`, so both reach quiescence within that many turns. -/

namespace Sys2Proof.Machine

variable {s t : State}

/-! ### One turn -/

/-- The match bit as rule R126 writes it is the comparison of the window's kinds. -/
theorem windowMatches_iff (hLegal : configLegal s.cfg = true) (hCur : s.cur ≤ s.wp) :
    windowMatches s = true ↔ (window s).map Symbol.kind = s.cfg.pat.map PatBit.kind := by
  obtain ⟨-, -, -, -, -, -, hLen, -⟩ := (configLegal_iff s.cfg).1 hLegal
  rw [windowKinds_eq_pattern_iff hLen, windowMatches, Bool.and_eq_true, decide_eq_true_iff, List.all_eq_true]
  refine and_congr_right fun hStart => ⟨fun hAll j b hb => ?_, fun hPlaces j hj => ?_⟩
  · have hj : j < s.cfg.len := (List.getElem?_eq_some_iff.1 hb).1
    have hKind := of_decide_eq_true (hAll j (List.mem_range.2 hj))
    rw [patRead, hb, Option.map_some, Option.some.injEq] at hKind
    rw [symRead_eq_getElem s _ (by omega), (Symbol.kind_eq_iff _ b).1 hKind.symm]
  · have hj : j < s.cfg.len := List.mem_range.1 hj
    have hb : s.cfg.pat[j]? = some s.cfg.pat[j] := List.getElem?_eq_getElem hj
    have hSym := symRead_of_getElem? (hPlaces j _ hb)
    rw [decide_eq_true_iff, patRead, hb, Option.map_some, (Symbol.kind_eq_iff _ _).2 hSym]

/-- The reference loop exits exactly when the scan unit is quiescent. -/
theorem scanTurn_of_quiescent (h : quiescent s = true) : scanTurn s = none := by
  obtain ⟨hTest, ⟨hSynced, hEnd⟩ | ⟨hSynced, hEnd⟩⟩ := (quiescent_iff s).1 h
  · rw [scanTurn, if_neg (by simp [hTest]), if_neg (by omega), if_neg (by simp [hSynced])]
  · rw [scanTurn, if_neg (by simp [hTest]), if_neg (by simp [hSynced]), if_neg (by omega)]

theorem nbits_eq_seven_iff (n : BitVec 3) : n = 7 ↔ n.toNat = 7 :=
  BitVec.toNat_inj.symm

/-- The accumulator of a pair of rule R176, by the bit. -/
theorem shiftIn_eq_or (acc : BitVec 8) (b : Bool) : shiftIn acc b = (acc >>> 1) ||| (if b then 0x80#8 else 0x00#8) := by
  cases b with
  | false => simp [shiftIn_false]
  | true => exact shiftIn_true acc

/-- The reference's clocking of one accepted pair. -/
theorem scanTurn_clocked (b : Bool) (hTest : s.wt = true) (hSynced : s.synced = true) (hCur : s.cur + 2 ≤ s.wp)
    (ha : symRead s s.cur = if b then .one else .zero) (hb : symRead s (s.cur + 1) = if b then .one else .zero) :
    scanTurn s = some (advance 2 (shift b s)) := by
  have hAccepted : ((symRead s s.cur).kind = .zero ∧ (symRead s (s.cur + 1)).kind = .zero) ∨
      ((symRead s s.cur).kind = .one ∧ (symRead s (s.cur + 1)).kind = .one) := by
    rw [ha, hb]
    cases b <;> simp [Symbol.kind]
  have hAcc : (s.acc >>> 1) ||| (if (symRead s s.cur).kind = .one then 0x80#8 else 0x00#8) = shiftIn s.acc b := by
    rw [shiftIn_eq_or, ha]
    cases b <;> rfl
  rw [scanTurn, if_neg (by simp [hTest]), if_neg (by simp [hSynced]), if_pos ⟨hSynced, hCur⟩]
  simp only [if_pos hAccepted, hAcc, nbits_eq_seven_iff]
  split
  · next hEighth => rw [advance_shift_of_eq 2 b hEighth]
  · next hBefore =>
    have hNbits : s.nbits.toNat < 8 := s.nbits.isLt
    rw [advance_shift_of_lt 2 b (by omega)]

/-- A step of the scan unit is a turn of the reference loop. -/
theorem StepCase.scanTurn_eq (hLegal : configLegal s.cfg = true) (hCur : s.cur ≤ s.wp) (hWidths : s.widths = [])
    (hBusy : quiescent s = false) (h : StepCase s t) : scanTurn s = some t := by
  cases h with
  | rest _ hQuiescent | transition _ _ _ hQuiescent | held _ _ _ hQuiescent => simp [hBusy] at hQuiescent
  | classify w ws y hw => cases hWidths.symm.trans hw
  | matched hw ht hm => rw [scanTurn, if_pos ht, if_pos ((windowMatches_iff hLegal hCur).2 hm)]; rfl
  | missed hw ht hm => rw [scanTurn, if_pos ht, if_neg (mt (windowMatches_iff hLegal hCur).1 hm)]
  | advanced hw ht hs hc => rw [scanTurn, if_neg (by simp [ht]), if_pos ⟨hs, hc⟩]; rfl
  | clocked b hw ht hs hc ha hb => exact scanTurn_clocked b ht hs hc ha hb
  | lost hw ht hs hc h0 h1 =>
    have hNotAccepted : ¬(((symRead s s.cur).kind = .zero ∧ (symRead s (s.cur + 1)).kind = .zero) ∨
        ((symRead s s.cur).kind = .one ∧ (symRead s (s.cur + 1)).kind = .one)) := by
      rintro (⟨ha, hb⟩ | ⟨ha, hb⟩)
      · exact h0 ⟨(Symbol.kind_eq_iff _ .zero).1 ha, (Symbol.kind_eq_iff _ .zero).1 hb⟩
      · exact h1 ⟨(Symbol.kind_eq_iff _ .one).1 ha, (Symbol.kind_eq_iff _ .one).1 hb⟩
    rw [scanTurn, if_neg (by simp [ht]), if_neg (by simp [hs]), if_pos ⟨hs, hc⟩]
    simp only [if_neg hNotAccepted]
    rfl

/-! ### Turns until quiescence -/

/-- A state whose next operation is the scan unit's, if the scan unit has one. -/
structure Scanning (s : State) : Prop where
  legal    : configLegal s.cfg = true
  noWidth  : s.widths = []
  curRange : s.cur ≤ s.wp

/-- The bound of rule R168: `2 (WP - CUR) + (1 if WT = 0)`. -/
def scanMeasure (s : State) : Nat := 2 * (s.wp - s.cur) + if s.wt then 0 else 1

theorem scanMeasure_of_tested (h : s.wt = true) : scanMeasure s = 2 * (s.sym.length - s.cur) := by
  simp [scanMeasure, h]

theorem scanMeasure_of_untested (h : s.wt = false) : scanMeasure s = 2 * (s.sym.length - s.cur) + 1 := by
  simp [scanMeasure, h]

/-- Moving `CUR` leaves a position to test, and lowers the bound by at least one all the same. -/
theorem scanMeasure_lt_of_cur_lt (hTest : s.wt = true) (hTest' : t.wt = false) (hSym : t.sym = s.sym)
    (hMoved : s.cur < t.cur) (hCur : t.cur ≤ s.wp) : scanMeasure t < scanMeasure s := by
  have hWp : t.cur ≤ s.sym.length := hCur
  rw [scanMeasure_of_tested hTest, scanMeasure_of_untested hTest', hSym]
  omega

/-- Testing a position lowers the bound by one. -/
theorem scanMeasure_lt_of_tested (hTest : s.wt = false) (hTest' : t.wt = true) (hSym : t.sym = s.sym)
    (hCur : t.cur = s.cur) : scanMeasure t < scanMeasure s := by
  rw [scanMeasure_of_untested hTest, scanMeasure_of_tested hTest', hSym, hCur]
  exact Nat.lt_succ_self _

/-- A step of the scan unit lowers the bound and leaves no width behind. -/
theorem StepCase.scanMeasure_lt (hScanning : Scanning s) (hBusy : quiescent s = false) (h : StepCase s t) :
    Scanning t ∧ scanMeasure t < scanMeasure s := by
  obtain ⟨hLegal, hWidths, hCur⟩ := hScanning
  cases h with
  | rest _ hQuiescent | transition _ _ _ hQuiescent | held _ _ _ hQuiescent => simp [hBusy] at hQuiescent
  | classify w ws y hw => cases hWidths.symm.trans hw
  | matched hw ht | missed hw ht => exact ⟨⟨hLegal, hw, hCur⟩, scanMeasure_lt_of_tested ht rfl rfl rfl⟩
  | advanced hw ht hs hc => exact ⟨⟨hLegal, hw, hc⟩, scanMeasure_lt_of_cur_lt ht rfl rfl (Nat.lt_succ_self _) hc⟩
  | clocked b hw ht hs hc =>
    exact ⟨⟨by simpa using hLegal, by simpa using hw, by simpa using hc⟩,
      scanMeasure_lt_of_cur_lt ht rfl (by simp) (by simp) (by simpa using hc)⟩
  | lost hw ht hs hc =>
    have hc : s.cur + 1 ≤ s.wp := (Nat.le_succ _).trans hc
    exact ⟨⟨hLegal, hw, hc⟩, scanMeasure_lt_of_cur_lt ht rfl rfl (Nat.lt_succ_self _) hc⟩

/-- While the scan unit is not quiescent, the step is the turn, and it lowers the bound. -/
theorem Scanning.exists_turn (h : Scanning s) (hBusy : quiescent s = false) :
    ∃ t, step s = .next t ∧ StepCase s t ∧ scanTurn s = some t ∧ Scanning t ∧ scanMeasure t < scanMeasure s := by
  obtain ⟨t, hStep⟩ := exists_step h.legal (by rw [h.noWidth]; exact List.forall_mem_nil _)
  obtain ⟨-, hCase⟩ := step_cases hStep
  exact ⟨t, hStep, hCase, hCase.scanTurn_eq h.legal h.curRange h.noWidth hBusy, hCase.scanMeasure_lt h hBusy⟩

theorem runScan_of_quiescent (n : Nat) (h : quiescent s = true) : runScan n s = s := by
  cases n with
  | zero => rfl
  | succ n => rw [runScan, scanTurn_of_quiescent h]

theorem runScan_of_scanTurn (n : Nat) (h : scanTurn s = some t) : runScan (n + 1) s = runScan n t := by
  rw [runScan, h]

/-- Rule R168: within the bound the scan unit becomes quiescent, in the state the reference loop ends in. -/
theorem Scanning.exists_run {n : Nat} (h : Scanning s) (hFuel : scanMeasure s ≤ n) :
    ∃ k, k ≤ scanMeasure s ∧ Host.Core.run Sys2Proof.core k s = .next (runScan n s) ∧
      quiescent (runScan n s) = true ∧ Scanning (runScan n s) := by
  induction n generalizing s with
  | zero =>
    cases hQuiescent : quiescent s with
    | true => exact ⟨0, Nat.zero_le _, rfl, hQuiescent, h⟩
    | false =>
      obtain ⟨t, -, -, -, -, hLess⟩ := h.exists_turn hQuiescent
      omega
  | succ n ih =>
    cases hQuiescent : quiescent s with
    | true =>
      rw [runScan_of_quiescent _ hQuiescent]
      exact ⟨0, Nat.zero_le _, rfl, hQuiescent, h⟩
    | false =>
      obtain ⟨t, hStep, -, hTurn, hScanning, hLess⟩ := h.exists_turn hQuiescent
      obtain ⟨k, hk, hRun, hEnd⟩ := ih hScanning (by omega)
      rw [runScan_of_scanTurn n hTurn]
      exact ⟨k + 1, by omega, (run_succ_of_next hStep).trans hRun, hEnd⟩

/-! ### What the reference loop leaves alone -/

/-- The reference loop writes neither the configuration, the detector, `SYM` nor the queues. -/
theorem scanTurn_frame (h : scanTurn s = some t) :
    t.cfg = s.cfg ∧ t.high = s.high ∧ t.dist = s.dist ∧ t.sym = s.sym ∧ t.samples = s.samples := by
  unfold scanTurn at h
  dsimp only at h
  split_ifs at h <;> cases h <;> exact ⟨rfl, rfl, rfl, rfl, rfl⟩

theorem runScan_frame (n : Nat) (s : State) :
    (runScan n s).cfg = s.cfg ∧ (runScan n s).high = s.high ∧ (runScan n s).dist = s.dist ∧
      (runScan n s).sym = s.sym ∧ (runScan n s).samples = s.samples := by
  induction n generalizing s with
  | zero => exact ⟨rfl, rfl, rfl, rfl, rfl⟩
  | succ n ih =>
    cases hTurn : scanTurn s with
    | none => rw [runScan, hTurn]; exact ⟨rfl, rfl, rfl, rfl, rfl⟩
    | some t =>
      obtain ⟨hCfg, hHigh, hDist, hSym, hSamples⟩ := scanTurn_frame hTurn
      rw [runScan_of_scanTurn n hTurn, ← hCfg, ← hHigh, ← hDist, ← hSym, ← hSamples]
      exact ih t

/-! ### The records of one symbol -/

/-- With at most one symbol left, the scan unit emits at most a SYNC: once it is Synced there, it waits for a second one. -/
theorem runScan_out_of_oneLeft (n : Nat) (h : Scanning s) (hLeft : s.wp ≤ s.cur + 1) :
    (runScan n s).out = s.out ∨ ∃ p, (runScan n s).out = s.out ++ [.sync p] := by
  induction n generalizing s with
  | zero => exact .inl rfl
  | succ n ih =>
    cases hQuiescent : quiescent s with
    | true => rw [runScan_of_quiescent _ hQuiescent]; exact .inl rfl
    | false =>
      obtain ⟨t, -, hCase, hTurn, hScanning, -⟩ := h.exists_turn hQuiescent
      rw [runScan_of_scanTurn n hTurn]
      cases hCase with
      | rest | transition | held => exact ih hScanning hLeft
      | classify w ws y hw => cases h.noWidth.symm.trans hw
      | matched =>
        have hEnd : quiescent (enterSync s) = true := (quiescent_iff _).2 ⟨rfl, .inr ⟨rfl, hLeft⟩⟩
        rw [runScan_of_quiescent n hEnd]
        exact .inr ⟨s.cur, rfl⟩
      | missed => exact ih hScanning hLeft
      | advanced => exact ih hScanning (Nat.le_succ_of_le hLeft)
      | clocked b _ _ _ hc | lost _ _ _ hc => omega

/-- Records that one symbol can cause (rule R168): none, a SYNC, a BLOCK, or a BLOCK and then a SYNC. -/
def symbolRecords (rs : List Record) : Prop :=
  rs = [] ∨ (∃ p, rs = [.sync p]) ∨ (∃ i p g l bs, rs = [.block i p g l bs]) ∨
    (∃ i p g l bs q, rs = [.block i p g l bs, .sync q])

/-- From a tested position with at most two symbols left, two only while Synced, the first turn may lose sync, and leaves at
most one symbol. -/
theorem exists_symbolRecords_runScan (n : Nat) (h : Scanning s) (hTest : s.wt = true)
    (hLeft : s.wp ≤ s.cur + 1 ∨ (s.synced = true ∧ s.wp ≤ s.cur + 2)) :
    ∃ rs, (runScan n s).out = s.out ++ rs ∧ symbolRecords rs := by
  have hFew {u : State} (m : Nat) (hu : Scanning u) (hOne : u.wp ≤ u.cur + 1) (hOut : u.out = s.out) :
      ∃ rs, (runScan m u).out = s.out ++ rs ∧ symbolRecords rs := by
    rw [← hOut]
    obtain hSame | ⟨p, hSync⟩ := runScan_out_of_oneLeft m hu hOne
    · exact ⟨[], by rw [hSame, List.append_nil], .inl rfl⟩
    · exact ⟨_, hSync, .inr (.inl ⟨p, rfl⟩)⟩
  obtain hOne | ⟨hSynced, hTwo⟩ := hLeft
  · exact hFew n h hOne rfl
  · cases n with
    | zero => exact ⟨[], (List.append_nil _).symm, .inl rfl⟩
    | succ n =>
      cases hQuiescent : quiescent s with
      | true =>
        rw [runScan_of_quiescent _ hQuiescent]
        exact ⟨[], (List.append_nil _).symm, .inl rfl⟩
      | false =>
        obtain ⟨t, -, hCase, hTurn, hScanning, -⟩ := h.exists_turn hQuiescent
        rw [runScan_of_scanTurn n hTurn]
        cases hCase with
        | rest _ hq | transition _ _ _ hq | held _ _ _ hq => simp [hQuiescent] at hq
        | classify w ws y hw => cases h.noWidth.symm.trans hw
        | matched _ ht | missed _ ht => cases hTest.symm.trans ht
        | advanced _ _ hs => cases hSynced.symm.trans hs
        | clocked b => exact hFew n hScanning (by simpa using Nat.le_succ_of_le hTwo) (by simp)
        | lost =>
          obtain hSame | ⟨p, hSync⟩ := runScan_out_of_oneLeft n hScanning hTwo
          · exact ⟨_, hSame.trans (loseSync_out s), .inr (.inr (.inl ⟨_, _, _, _, _, rfl⟩))⟩
          · refine ⟨_, ?_, .inr (.inr (.inr ⟨s.blkidx, s.cur, s.cur - s.lastlos, s.blk.length, s.blk, p, rfl⟩))⟩
            rw [hSync, loseSync_out, List.append_assoc]
            rfl

/-! ### Runs put together -/

theorem run_add {m : Nat} (n : Nat) (h : Host.Core.run Sys2Proof.core m s = .next t) :
    Host.Core.run Sys2Proof.core (m + n) s = Host.Core.run Sys2Proof.core n t := by
  induction m generalizing s with
  | zero => cases h; rw [Nat.zero_add]
  | succ m ih =>
    obtain ⟨u, hStep, hRun⟩ := run_succ_eq_next h
    rw [Nat.add_right_comm, run_succ_of_next hStep, ih hRun]

/-- At rest a run goes nowhere (rule R167). -/
theorem run_of_step_eq_self (n : Nat) (h : step s = .next s) : Host.Core.run Sys2Proof.core n s = .next s := by
  induction n with
  | zero => rfl
  | succ n ih => rw [run_succ_of_next h, ih]

/-- From a quiescent state one symbol more leaves at most four turns (rule R168). -/
theorem scanMeasure_append_le (ys : List Symbol) (hCur : s.cur ≤ s.wp) (hQuiescent : quiescent s = true)
    (hLength : ys.length ≤ 1) (ht : t.wt = s.wt) (hc : t.cur = s.cur) (hs : t.sym = s.sym ++ ys) :
    scanMeasure t ≤ 4 := by
  obtain ⟨hTest, hEnd⟩ := (quiescent_iff s).1 hQuiescent
  have hWp : s.wp = s.sym.length := rfl
  rw [scanMeasure_of_tested (ht.trans hTest), hc, hs, List.length_append]
  omega

/-- Settles O43: the scan unit reaches quiescence within four turns and rests for what is left of the four steps; the
records are those of `exists_symbolRecords_runScan`. -/
theorem fourMicroOperationsReachQuiescence : Obligations.FourMicroOperationsReachQuiescence := by
  intro s y hInv hQuiescent hWidths hSamples
  obtain ⟨hTest, hEnd⟩ := (quiescent_iff s).1 hQuiescent
  have hCur := hInv.curRange
  have hWp := symAppend_wp y s
  have hScanning : Scanning (symAppend y s) := ⟨hInv.legal, hWidths, by rw [hWp]; exact Nat.le_succ_of_le hCur⟩
  have hMeasure : scanMeasure (symAppend y s) ≤ 4 := scanMeasure_append_le [y] hCur hQuiescent le_rfl rfl rfl rfl
  obtain ⟨k, hk, hRun, hQuiescent', hScanning'⟩ := hScanning.exists_run hMeasure
  obtain ⟨-, -, -, -, hSamples'⟩ := runScan_frame 4 (symAppend y s)
  have hRest := step_of_case hScanning'.legal (.rest hScanning'.noWidth hQuiescent' (hSamples'.trans hSamples))
  have hLeft : (symAppend y s).wp ≤ (symAppend y s).cur + 1 ∨
      ((symAppend y s).synced = true ∧ (symAppend y s).wp ≤ (symAppend y s).cur + 2) := by
    rw [hWp, symAppend_cur, symAppend_synced]
    exact hEnd.imp (fun ⟨_, h⟩ => Nat.succ_le_succ h) fun ⟨hSynced, h⟩ => ⟨hSynced, Nat.succ_le_succ h⟩
  obtain ⟨rs, hOut, hRecords⟩ := exists_symbolRecords_runScan 4 hScanning hTest hLeft
  refine ⟨runScan 4 (symAppend y s), rs, ?_, hQuiescent', hOut, hRecords⟩
  rw [← run_of_step_eq_self (4 - k) hRest, ← run_add _ hRun, Nat.add_sub_cancel' (hk.trans hMeasure)]

end Sys2Proof.Machine
end

section
/-! PROOFS. The sample step of rule R176 (spec/45_pipeline.md sections 1, 2 and 4): the detector's and the classifier's steps
give its first two actions, the scan unit's the third; a run is its fold, and the symbols it appends are the classified
widths of the detector alone. -/

namespace Sys2Proof.Machine

variable {s : State}

/-! ### The detector and the classifier -/

/-- The sample is past the threshold that `HIGH` selects (rule R83). -/
def crosses (s : State) (v : Sample) : Prop :=
  (s.high = false ∧ s.cfg.t < v.toInt) ∨ (s.high = true ∧ v.toInt < -s.cfg.t)

/-- The reference's first two actions on a transition: the width is classified at once if it is retained. -/
theorem detectAndClassify_of_crosses {v : Sample} (h : crosses s v) :
    detectAndClassify v s = { s with
      high := !s.high, dist := 0,
      sym := if min (s.dist.toNat + 1) s.cfg.wmax < s.cfg.wmax then
          s.sym ++ [classify s.cfg (BitVec.ofNat 7 (min (s.dist.toNat + 1) s.cfg.wmax))]
        else s.sym } := by
  obtain ⟨hHigh, hAbove⟩ | ⟨hHigh, hBelow⟩ := h
  · rw [detectAndClassify, if_pos ⟨hHigh, hAbove⟩, hHigh]
    rfl
  · rw [detectAndClassify, if_neg (by simp [hHigh]), if_pos ⟨hHigh, hBelow⟩, hHigh]
    rfl

/-- Without a transition the sample is counted. -/
theorem detectAndClassify_of_not_crosses {v : Sample} (h : ¬crosses s v) : detectAndClassify v s = countSample s := by
  obtain ⟨hRise, hFall⟩ := not_or.1 h
  rw [detectAndClassify, if_neg hRise, if_neg hFall, countSample]

/-- What the first two actions do to the scan unit: at most one symbol more. -/
theorem detectAndClassify_scan (v : Sample) (s : State) :
    (detectAndClassify v s).cfg = s.cfg ∧ (detectAndClassify v s).cur = s.cur ∧ (detectAndClassify v s).wt = s.wt ∧
      (detectAndClassify v s).widths = s.widths ∧
      ∃ ys, ys.length ≤ 1 ∧ (detectAndClassify v s).sym = s.sym ++ ys := by
  by_cases h : crosses s v
  · rw [detectAndClassify_of_crosses h]
    refine ⟨rfl, rfl, rfl, rfl, ?_⟩
    dsimp only
    split
    · exact ⟨_, le_rfl, rfl⟩
    · exact ⟨[], Nat.zero_le 1, (List.append_nil _).symm⟩
  · rw [detectAndClassify_of_not_crosses h]
    exact ⟨rfl, rfl, rfl, rfl, [], Nat.zero_le 1, (List.append_nil _).symm⟩

/-- One step of ZCD, and one of CLS if a width was retained, are the reference's first two actions. -/
theorem exists_run_detectAndClassify {v : Sample} {vs : List Sample} (hLegal : configLegal s.cfg = true)
    (hWidths : s.widths = []) (hQuiescent : quiescent s = true) (hSamples : s.samples = v :: vs) :
    ∃ k, k ≤ 2 ∧
      Host.Core.run Sys2Proof.core k s = .next (detectAndClassify v { s with samples := vs }) := by
  by_cases hCross : crosses s v
  · have hStep := step_of_transition hLegal hWidths hQuiescent hSamples hCross
    rw [detectAndClassify_of_crosses (s := { s with samples := vs }) hCross]
    by_cases hRetained : min (s.dist.toNat + 1) s.cfg.wmax < s.cfg.wmax
    · have hWmax := wmax_le_of_configLegal hLegal
      have hWidth : (BitVec.ofNat 7 (min (s.dist.toNat + 1) s.cfg.wmax)).toNat = min (s.dist.toNat + 1) s.cfg.wmax := by
        rw [BitVec.toNat_ofNat]
        omega
      have hQueue : (afterTransition (!s.high) { s with samples := vs }).widths =
          [BitVec.ofNat 7 (min (s.dist.toNat + 1) s.cfg.wmax)] := by
        simp only [afterTransition, if_pos hRetained, hWidths]
        rfl
      have hClassify := step_of_case (s := afterTransition (!s.high) { s with samples := vs }) hLegal
        (.classify _ [] _ hQueue (by rw [hWidth]; omega) (by rw [hWidth]; exact hRetained) rfl)
      refine ⟨2, le_rfl, ?_⟩
      rw [run_succ_of_next hStep, run_succ_of_next hClassify, run_zero]
      simp only [symAppend, afterTransition, if_pos hRetained, hWidths]
      rfl
    · refine ⟨1, Nat.le_succ 1, ?_⟩
      rw [run_succ_of_next hStep, run_zero]
      simp only [afterTransition, if_neg hRetained]
  · have hStep := step_of_case hLegal (.held v vs hWidths hQuiescent hSamples hCross)
    rw [detectAndClassify_of_not_crosses (s := { s with samples := vs }) hCross]
    exact ⟨1, Nat.le_succ 1, by rw [run_succ_of_next hStep, run_zero]⟩

/-! ### The samples still waiting play no part -/

theorem scanTurn_withSamples (vs : List Sample) (s : State) :
    scanTurn { s with samples := vs } = (scanTurn s).map fun t => { t with samples := vs } := by
  have hWindow : windowMatches { s with samples := vs } = windowMatches s := rfl
  have hSym (i : Nat) : symRead { s with samples := vs } i = symRead s i := rfl
  simp only [scanTurn, hWindow, hSym]
  split_ifs <;> rfl

theorem runScan_withSamples (n : Nat) (vs : List Sample) (s : State) :
    runScan n { s with samples := vs } = { runScan n s with samples := vs } := by
  induction n generalizing s with
  | zero => rfl
  | succ n ih =>
    cases hTurn : scanTurn s with
    | none => rw [runScan, runScan, scanTurn_withSamples, hTurn]; rfl
    | some t =>
      have hTurn' : scanTurn { s with samples := vs } = some { t with samples := vs } := by
        rw [scanTurn_withSamples, hTurn]
        rfl
      rw [runScan_of_scanTurn n hTurn, runScan_of_scanTurn n hTurn', ih]

theorem detectAndClassify_withSamples (v : Sample) (vs : List Sample) (s : State) :
    detectAndClassify v { s with samples := vs } = { detectAndClassify v s with samples := vs } := by
  by_cases h : crosses s v
  · rw [detectAndClassify_of_crosses h, detectAndClassify_of_crosses (s := { s with samples := vs }) h]
  · rw [detectAndClassify_of_not_crosses h, detectAndClassify_of_not_crosses (s := { s with samples := vs }) h]
    rfl

theorem sampleStep_withSamples (v : Sample) (vs : List Sample) (s : State) :
    sampleStep v { s with samples := vs } = { sampleStep v s with samples := vs } := by
  rw [sampleStep, detectAndClassify_withSamples, runScan_withSamples]
  rfl

theorem sampleRun_withSamples (us vs : List Sample) (s : State) :
    sampleRun us { s with samples := vs } = { sampleRun us s with samples := vs } := by
  induction us generalizing s with
  | nil => rfl
  | cons v us ih =>
    rw [sampleRun, List.foldl_cons, sampleStep_withSamples]
    exact ih (sampleStep v s)

/-! ### The sample step and the run -/

/-- The bound of rule R168 fits the reference's fuel. -/
theorem scanMeasure_le_scanFuel (s : State) : scanMeasure s ≤ scanFuel s := by
  rw [scanMeasure, scanFuel]
  split
  · exact Nat.le_succ _
  · exact le_rfl

/-- Settles O46: at most two steps for the first two actions, and then at most four turns of the scan unit, which the
reference loop does alike. -/
theorem sampleStepIsTheReferencePseudocode : Obligations.SampleStepIsTheReferencePseudocode := by
  intro s v vs hInv hQuiescent hWidths hSamples
  obtain ⟨j, hj, hDetect⟩ := exists_run_detectAndClassify hInv.legal hWidths hQuiescent hSamples
  obtain ⟨hCfg, hCur, hTest, hQueue, ys, hLength, hSym⟩ := detectAndClassify_scan v { s with samples := vs }
  have hMeasure := scanMeasure_append_le ys hInv.curRange hQuiescent hLength hTest hCur hSym
  have hScanning : Scanning (detectAndClassify v { s with samples := vs }) := by
    refine ⟨by rw [hCfg]; exact hInv.legal, hQueue.trans hWidths, ?_⟩
    rw [hCur, State.wp, hSym, List.length_append]
    exact Nat.le_add_right_of_le hInv.curRange
  obtain ⟨k, hk, hScan, hEnd, hDone⟩ := hScanning.exists_run (scanMeasure_le_scanFuel _)
  rw [← sampleStep, sampleStep_withSamples] at hScan hEnd hDone
  exact ⟨j + k, by omega, (run_add k hDetect).trans hScan, hEnd, hDone.noWidth⟩

/-- Settles O47, by induction on the samples presented: after each of them the state is again quiescent with no width, and
meets the invariant. -/
theorem runIsTheFoldOfTheSampleStep : Obligations.RunIsTheFoldOfTheSampleStep := by
  intro s hInv hQuiescent hWidths
  induction hSamples : s.samples generalizing s with
  | nil =>
    have hNone : s = { s with samples := [] } := congrArg (fun vs => { s with samples := vs }) hSamples
    exact ⟨0, le_rfl, congrArg Host.Outcome.next hNone⟩
  | cons v vs ih =>
    obtain ⟨m, hm, hRun, hQuiescent', hWidths'⟩ :=
      sampleStepIsTheReferencePseudocode s v vs hInv hQuiescent hWidths hSamples
    obtain ⟨n, hn, hRest⟩ := ih { sampleStep v s with samples := vs } (inv_of_run hInv hRun) hQuiescent' hWidths' rfl
    refine ⟨m + n, by rw [List.length_cons]; omega, ?_⟩
    rw [run_add n hRun, hRest, sampleRun_withSamples]
    rfl

/-! ### The symbols of a run -/

theorem retainedWidths_of_crosses {v : Sample} (count : Nat → Nat) (d : Nat) (vs : List Sample) (h : crosses s v) :
    retainedWidths s.cfg count s.high d (v :: vs) =
      (if count d < s.cfg.wmax then [count d] else []) ++ retainedWidths s.cfg count (!s.high) 0 vs := by
  obtain ⟨hHigh, hAbove⟩ | ⟨hHigh, hBelow⟩ := h
  · rw [retainedWidths, if_pos ⟨hHigh, hAbove⟩, hHigh]
    rfl
  · rw [retainedWidths, if_neg (by simp [hHigh]), if_pos ⟨hHigh, hBelow⟩, hHigh]
    rfl

theorem retainedWidths_of_not_crosses {v : Sample} (count : Nat → Nat) (d : Nat) (vs : List Sample)
    (h : ¬crosses s v) :
    retainedWidths s.cfg count s.high d (v :: vs) = retainedWidths s.cfg count s.high (count d) vs := by
  obtain ⟨hRise, hFall⟩ := not_or.1 h
  rw [retainedWidths, if_neg hRise, if_neg hFall]

/-- The sample step does to the configuration, the detector and `SYM` what its first two actions do. -/
theorem sampleStep_frame (v : Sample) (s : State) :
    (sampleStep v s).cfg = s.cfg ∧ (sampleStep v s).high = (detectAndClassify v s).high ∧
      (sampleStep v s).dist = (detectAndClassify v s).dist ∧ (sampleStep v s).sym = (detectAndClassify v s).sym := by
  obtain ⟨hCfg, hHigh, hDist, hSym, -⟩ := runScan_frame (scanFuel (detectAndClassify v s)) (detectAndClassify v s)
  exact ⟨hCfg.trans (detectAndClassify_scan v s).1, hHigh, hDist, hSym⟩

/-- Settles O48, by induction on the samples: a transition appends the classified width it retains, any other sample
appends nothing, and both leave the detector as `retainedWidths` goes on from. -/
theorem symbolsAreTheClassifiedWidths : Obligations.SymbolsAreTheClassifiedWidths := by
  intro s vs hLegal
  induction vs generalizing s with
  | nil => exact (List.append_nil _).symm
  | cons v vs ih =>
    obtain ⟨hCfg, hHigh, hDist, hSym⟩ := sampleStep_frame v s
    have hRest := ih (sampleStep v s) (by rw [hCfg]; exact hLegal)
    rw [hCfg, hHigh, hDist, hSym] at hRest
    rw [sampleRun, List.foldl_cons]
    refine hRest.trans ?_
    by_cases hCross : crosses s v
    · rw [retainedWidths_of_crosses _ _ _ hCross, detectAndClassify_of_crosses hCross, List.map_append]
      dsimp only
      split
      · exact List.append_assoc _ _ _
      · rfl
    · rw [retainedWidths_of_not_crosses _ _ _ hCross, detectAndClassify_of_not_crosses hCross,
        countSample_toNat s (wmax_le_of_configLegal hLegal)]
      rfl

end Sys2Proof.Machine
end
